-- ==== Sys2Proof/Word.lean ====
section
/-! DEFINITION. The two word types of the block (R12) and nothing else. -/

namespace Sys2Proof

/-- `Byte` of R12: an 8-bit unsigned value, bit 0 the least significant. -/
abbrev Byte := BitVec 8

/-- `U16` of R12: a 16-bit unsigned value (every coordinate and every typed colour, R9). -/
abbrev U16 := BitVec 16

end Sys2Proof
end

