-- ==== Sys2Proof/Config.lean ====
section
/-! DEFINITION. The implementation parameters of R8 (configuration, not state), the types they range over,
and the free values. The values of a build's configuration stand nowhere: `Config.board` has no body.
The types R8 takes as parameters are read off it as well. -/

namespace Sys2Proof

/-- `Line` of R28. -/
inductive Line where
  | rst
  | bl
deriving DecidableEq, Repr, Inhabited

/-- The controller commands: the 13 names of the Instruction set (R72), then the 12 literal init commands (R73).
A constructor is the `<name>` of the parameter `OPC_<name>`. -/
inductive CommandName where
  | nop | swreset | slpin | slpout | invoff | invon | dispoff | dispon | caset | raset | ramwr | ramrd | madctl
  | pgam | ngam | pwr1 | pwr2 | vcom | colmod | ifmode | frmctr | invctr | disctrl | etmod | adjctl3
deriving DecidableEq, Repr, Inhabited

/-- The eleven init parameter strings of R74 that are lists: the `<name>` of `P_<name>`. -/
inductive ParamName where
  | pgam | ngam | pwr1 | pwr2 | vcom | ifmode | frmctr | invctr | disctrl | etmod | adjctl3
deriving DecidableEq, Repr, Inhabited

/-- A non-empty list of bytes (R8, R74): its first byte and the rest. -/
structure ParamBytes where
  head : Byte
  tail : List Byte
deriving DecidableEq, Repr, Inhabited

/-- `INIT_CACHE_POLICY` (R8, R113). -/
inductive CachePolicy where
  | setDefault
  | keep
deriving DecidableEq, Repr, Inhabited

/-- The parameters of R8. Its constraints hold by construction: a parameter string is non-empty (`ParamBytes`),
and the reset pulse is 100 us and `resetPulseOver` more (`RESET_PULSE_US >= 100`). Log entry 7. -/
structure Config where
  /-- `OPC_<name>` (R72, R73). -/
  opc : CommandName → Byte
  /-- `P_<name>` (R74). -/
  param : ParamName → ParamBytes
  /-- `P_INIT_MADCTL` (R74). -/
  initMadctl : Byte
  /-- `P_COLMOD` (R74). -/
  colmodByte : Byte
  /-- `RESET_PULSE_US - 100` (R8). -/
  resetPulseOver : Nat
  /-- `INIT_CACHE_POLICY` (R113). -/
  cachePolicy : CachePolicy
  /-- The type `Chan`: which tokens are values of it beside its first. -/
  chanTokens : Nat → Bool
  /-- The type `RstLine`, likewise. -/
  rstTokens : Nat → Bool
  /-- The type `BlLine`, likewise. -/
  blTokens : Nat → Bool
  /-- The type `PinErr` (D18, U16), likewise. -/
  pinErrTokens : Nat → Bool
deriving Inhabited

/-- The build's configuration: open (U12 to U15), so nothing can be proved of its values. -/
opaque Config.board : Config

/-- A type the build chooses: a first value, and for each token it has one more. With `has` open, it is any countable
type with a value, of one value, of finitely many or of infinitely many. Log entry 2. -/
inductive Value (has : Nat → Bool) where
  | first
  | other (token : Nat) (isValue : has token = true)
deriving DecidableEq, Repr, Inhabited

/-- `Chan` (R8, R22): the opaque handle type of the Command/Data Channel. -/
abbrev Chan := Value Config.board.chanTokens

/-- `RstLine` (R8, R23): the opaque handle type of the reset line. -/
abbrev RstLine := Value Config.board.rstTokens

/-- `BlLine` (R8, R23): the opaque handle type of the backlight line. -/
abbrev BlLine := Value Config.board.blTokens

/-- `PinErr` (R8, D18): the type of a pin failure's payload, one for both lines. -/
abbrev PinErr := Value Config.board.pinErrTokens

/-- `ChanAns` of R28: the channel's answer to one burst. -/
inductive ChanAns where
  | ok
  | fail
deriving DecidableEq, Repr, Inhabited

/-- `PinAns` of R28: a line's answer to one set. -/
inductive PinAns where
  | ok
  | fail (e : PinErr)
deriving DecidableEq, Repr, Inhabited

/-- The `n`-th answer the channel gives once the listed answers are used up (R48: a free input). Log entry 4. -/
opaque Config.freeChanAns : Nat → ChanAns

/-- The `n`-th answer a line gives once its listed answers are used up (R48: a free input). Log entry 4. -/
opaque Config.freePinAns : Line → Nat → PinAns

/-- What `upc` holds after the `n`-th request has ended (R20: "at no defined value"). Log entry 3. -/
opaque Config.freeUpc : Nat → Nat

end Sys2Proof
end

