-- ==== Sys2Proof/Syntax.lean ====
section
/-! DEFINITION. The typed form of the ten requests (R60, R63, R65), their names, the pseudo-instructions of R76,
and the orientation and tearing-effect types (R24, R27). -/

namespace Sys2Proof

/-- `Orientation` (R24): exactly four variants, named by their bit pattern. -/
inductive Orientation where
  | orient00
  | orient60
  | orientC0
  | orientA0
deriving DecidableEq, Repr, Inhabited

/-- `TearingEffectMode` (R27): a type of three values that no state field, operation or command carries. -/
inductive TearingEffectMode where
  | teOff
  | teV
  | teHV
deriving DecidableEq, Repr

/-- The ten requests with the operands of R65, one constructor a row of spec/opcode_table.json. -/
inductive Instr where
  /-- R100: the handles arrive on the resource ports (R64). -/
  | new (chan : Chan) (rst : Option RstLine) (bl : Option BlLine)
  /-- R101. -/
  | release
  /-- R110. -/
  | hardReset
  /-- R112. -/
  | init
  /-- R140. -/
  | orientation
  /-- R141. -/
  | setOrientation (o : Orientation)
  /-- R150. -/
  | setAddressWindow (sx sy ex ey : U16)
  /-- R160. -/
  | setPixel (x y color : U16)
  /-- R161. -/
  | setPixels (sx sy ex ey : U16) (colors : List U16)
  /-- R162. -/
  | writeRaw (buf : List Byte)
deriving DecidableEq, Repr

/-- `OpName` of R28: the name a request carries in its `BeginEv`. -/
inductive OpName where
  | new
  | release
  | hardReset
  | init
  | orientation
  | setOrientation
  | setAddressWindow
  | setPixel
  | setPixels
  | writeRaw
deriving DecidableEq, Repr

/-- The pseudo-instructions of R76. -/
inductive Pseudo where
  | powerUp
  | blit (sx sy ex ey : U16) (buf : List Byte)
deriving DecidableEq, Repr

/-- The resource ports that travel beside a frame (R60, R64): the handles `new` takes when its flags name them.
The delay capability is a port without data (D29). Log entries 9 and 14. -/
structure Ports where
  chan : Chan
  rst : RstLine
  bl : BlLine
deriving DecidableEq, Repr, Inhabited

end Sys2Proof
end

