-- ==== Sys2Proof/Machine/Operands.lean ====
section
/-! DEFINITION. Every operand form: byte order (R13, R42), operand assembly (R65), orientation codes and patterns
(R24, R69), and the payload of the typed path (R161). -/

namespace Sys2Proof.Machine

/-- `be16` of R13: the most significant byte first. -/
def be16 (v : U16) : List Byte := [v.extractLsb' 8 8, v.extractLsb' 0 8]

/-- A 16-bit field of R65: `frame[k] * 256 + frame[k+1]`. -/
def u16 (hi lo : Byte) : U16 := BitVec.ofNat 16 (hi.toNat * 256 + lo.toNat)

/-- A count as R61 lays it out: four bytes, most significant first. -/
def be32 (n : Nat) : List Byte :=
  [BitVec.ofNat 8 (n / 2 ^ 24), BitVec.ofNat 8 (n / 2 ^ 16), BitVec.ofNat 8 (n / 2 ^ 8), BitVec.ofNat 8 n]

/-- A count as R65 reads it. -/
def count32 (a b c d : Byte) : Nat := a.toNat * 2 ^ 24 + b.toNat * 2 ^ 16 + c.toNat * 2 ^ 8 + d.toNat

/-- The bytes of a sequence of 16-bit values, in order, each big-endian: `concat([be16(c) for c in colors])` (R161). -/
def colorBytes : List U16 → List Byte
  | [] => []
  | c :: cs => be16 c ++ colorBytes cs

/-- The colours `c_i` of an F_PIXS frame (R64): two bytes each. -/
def colorsOf : List Byte → List U16
  | hi :: lo :: rest => u16 hi lo :: colorsOf rest
  | _ => []

/-- The 2-bit request code of a variant (R24, R69). -/
def orientCode : Orientation → BitVec 2
  | .orient00 => 0b00
  | .orient60 => 0b01
  | .orientC0 => 0b10
  | .orientA0 => 0b11

/-- The variant of a 2-bit request code (R69). -/
def orientOfCode (c : BitVec 2) : Orientation :=
  match c.toNat with
  | 0 => .orient00
  | 1 => .orient60
  | 2 => .orientC0
  | _ => .orientA0

/-- `pat(o)`, the data byte sent for a variant (R24, R69). -/
def pat : Orientation → Byte
  | .orient00 => 0x00
  | .orient60 => 0x60
  | .orientC0 => 0xC0
  | .orientA0 => 0xA0

/-- The variant whose pattern a data burst is, if it is one (R24). -/
def orientOfBurst : List Byte → Option Orientation
  | [b] =>
    match b.toNat with
    | 0x00 => some .orient00
    | 0x60 => some .orient60
    | 0xC0 => some .orientC0
    | 0xA0 => some .orientA0
    | _ => none
  | _ => none

/-- The default orientation (R26). -/
def defaultOrientation : Orientation := .orient00

/-- The bytes of a parameter string (R74). -/
def paramBytes (p : ParamBytes) : List Byte := p.head :: p.tail

/-- `RESET_PULSE_US` (R8): at least 100. -/
def resetPulseUs (cfg : Config) : Nat := 100 + cfg.resetPulseOver

end Sys2Proof.Machine
end

