-- ==== Sys2Proof/WellFormed.lean ====
section
/-! DEFINITION. Which typed requests a frame can spell: the one bound is that a count fits its four bytes (R65). -/

namespace Sys2Proof

/-- A count of R65 is below 2^32. -/
def countFits (n : Nat) : Bool := decide (n < 2 ^ 32)

/-- A request a frame of R64 can spell. The typed form itself has no other bound (R9: "of any length"; log entry
19). -/
def Instr.wf : Instr → Bool
  | .new _ _ _ => true
  | .release => true
  | .hardReset => true
  | .init => true
  | .orientation => true
  | .setOrientation _ => true
  | .setAddressWindow _ _ _ _ => true
  | .setPixel _ _ _ => true
  | .setPixels _ _ _ _ colors => countFits colors.length
  | .writeRaw buf => countFits buf.length

end Sys2Proof
end

