-- ==== Sys2Proof/Decode.lean ====
section
/-! DEFINITION. Request frames: the selector map (R63), the formats (R64, R67), the decoder, total on any bytes and
refusing by name (R66), and after it the encoder. -/

namespace Sys2Proof

open Sys2Proof.Machine

/-- The formats of R64. -/
inductive Format where
  | fNone
  | fNew
  | fOri
  | fWin
  | fPix
  | fPixs
  | fRaw
deriving DecidableEq, Repr

/-- Why a frame spells no operation (R66). Each is the refusal `IllegalRequest` of R207. -/
inductive FrameError where
  /-- `sel` is 0x00 or in 0x0B..0xFF. -/
  | reservedSelector
  /-- A bit of `flags[7:2]` or `ocode[7:2]` is set. -/
  | reservedBits
  /-- The length is not that of R64 (an empty frame included, log entry 12). -/
  | wrongLength
deriving DecidableEq, Repr

/-- The selector map of R63, read. -/
def opOfSel (sel : Byte) : Option OpName :=
  match sel.toNat with
  | 0x01 => some .new
  | 0x02 => some .release
  | 0x03 => some .hardReset
  | 0x04 => some .init
  | 0x05 => some .orientation
  | 0x06 => some .setOrientation
  | 0x07 => some .setAddressWindow
  | 0x08 => some .setPixel
  | 0x09 => some .setPixels
  | 0x0A => some .writeRaw
  | _ => none

/-- The selector map of R63, written. -/
def selOf : OpName → Byte
  | .new => 0x01
  | .release => 0x02
  | .hardReset => 0x03
  | .init => 0x04
  | .orientation => 0x05
  | .setOrientation => 0x06
  | .setAddressWindow => 0x07
  | .setPixel => 0x08
  | .setPixels => 0x09
  | .writeRaw => 0x0A

/-- The format of each operation (R63). -/
def formatOf : OpName → Format
  | .new => .fNew
  | .release => .fNone
  | .hardReset => .fNone
  | .init => .fNone
  | .orientation => .fNone
  | .setOrientation => .fOri
  | .setAddressWindow => .fWin
  | .setPixel => .fPix
  | .setPixels => .fPixs
  | .writeRaw => .fRaw

/-- The operation of a typed request (R63). -/
def opNameOf : Instr → OpName
  | .new _ _ _ => .new
  | .release => .release
  | .hardReset => .hardReset
  | .init => .init
  | .orientation => .orientation
  | .setOrientation _ => .setOrientation
  | .setAddressWindow _ _ _ _ => .setAddressWindow
  | .setPixel _ _ _ => .setPixel
  | .setPixels _ _ _ _ _ => .setPixels
  | .writeRaw _ => .writeRaw

/-- The bytes of a format before its counted part (R64): the whole frame of a fixed format. -/
def fixedBytes : Format → Nat
  | .fNone => 1
  | .fNew => 2
  | .fOri => 2
  | .fWin => 9
  | .fPix => 7
  | .fPixs => 13
  | .fRaw => 5

/-- The bytes one counted element takes (R64): `2n` colours bytes, `n` raw bytes, nothing counted elsewhere. -/
def unitBytes : Format → Nat
  | .fPixs => 2
  | .fRaw => 1
  | _ => 0

/-- The four count bytes starting at index `k` of a frame. -/
def countAt (k : Nat) (frame : List Byte) : Nat :=
  match frame.drop k with
  | a :: b :: c :: d :: _ => count32 a b c d
  | _ => 0

/-- The count of a frame of a variable format (R64): bytes 9-12 of F_PIXS, bytes 1-4 of F_RAW. -/
def frameCount (f : Format) (frame : List Byte) : Nat :=
  match f with
  | .fPixs => countAt 9 frame
  | .fRaw => countAt 1 frame
  | _ => 0

/-- The length R67 gives a frame from its selector and, in a variable format, its count. -/
def frameLength (f : Format) (frame : List Byte) : Nat := fixedBytes f + unitBytes f * frameCount f frame

/-- F_NONE: nothing after the selector. -/
def decodeNone (i : Instr) : List Byte → Except FrameError Instr
  | [] => .ok i
  | _ => .error .wrongLength

/-- F_NEW (R64): `flags[0]` and `flags[1]` say which line handles stand on the ports. -/
def decodeNew (p : Ports) : List Byte → Except FrameError Instr
  | [flags] =>
    if flags.extractLsb' 2 6 = 0 then
      .ok (.new p.chan (if flags.getLsbD 0 then some p.rst else none) (if flags.getLsbD 1 then some p.bl else none))
    else .error .reservedBits
  | _ => .error .wrongLength

/-- F_ORI (R64): the code in `ocode[1:0]`. -/
def decodeOri : List Byte → Except FrameError Instr
  | [ocode] =>
    if ocode.extractLsb' 2 6 = 0 then .ok (.setOrientation (orientOfCode (ocode.extractLsb' 0 2)))
    else .error .reservedBits
  | _ => .error .wrongLength

/-- F_WIN (R64). -/
def decodeWin : List Byte → Except FrameError Instr
  | [a, b, c, d, e, f, g, h] => .ok (.setAddressWindow (u16 a b) (u16 c d) (u16 e f) (u16 g h))
  | _ => .error .wrongLength

/-- F_PIX (R64). -/
def decodePix : List Byte → Except FrameError Instr
  | [a, b, c, d, e, f] => .ok (.setPixel (u16 a b) (u16 c d) (u16 e f))
  | _ => .error .wrongLength

/-- F_PIXS (R64): the count at bytes 9-12, then two bytes a colour. -/
def decodePixs : List Byte → Except FrameError Instr
  | a :: b :: c :: d :: e :: f :: g :: h :: n0 :: n1 :: n2 :: n3 :: rest =>
    if rest.length = 2 * count32 n0 n1 n2 n3 then
      .ok (.setPixels (u16 a b) (u16 c d) (u16 e f) (u16 g h) (colorsOf rest))
    else .error .wrongLength
  | _ => .error .wrongLength

/-- F_RAW (R64): the count at bytes 1-4, then the buffer. -/
def decodeRaw : List Byte → Except FrameError Instr
  | n0 :: n1 :: n2 :: n3 :: rest =>
    if rest.length = count32 n0 n1 n2 n3 then .ok (.writeRaw rest) else .error .wrongLength
  | _ => .error .wrongLength

/-- The operand bytes of an operation (R64, R67). -/
def decodeBody (p : Ports) (op : OpName) (rest : List Byte) : Except FrameError Instr :=
  match op with
  | .new => decodeNew p rest
  | .release => decodeNone .release rest
  | .hardReset => decodeNone .hardReset rest
  | .init => decodeNone .init rest
  | .orientation => decodeNone .orientation rest
  | .setOrientation => decodeOri rest
  | .setAddressWindow => decodeWin rest
  | .setPixel => decodePix rest
  | .setPixels => decodePixs rest
  | .writeRaw => decodeRaw rest

/-- The decoder of R67: the selector, then the operand bytes; total, and refusing by name what R66 refuses. -/
def decode (p : Ports) (frame : List Byte) : Except FrameError Instr :=
  match frame with
  | [] => .error .wrongLength
  | sel :: rest =>
    match opOfSel sel with
    | none => .error .reservedSelector
    | some op => decodeBody p op rest

/-- The flags byte of F_NEW (R64). -/
def newFlags (rst : Option RstLine) (bl : Option BlLine) : Byte :=
  (if rst.isSome then 0x01 else 0x00) ||| (if bl.isSome then 0x02 else 0x00)

/-- The operand bytes of a typed request (R61, R64). -/
def encodeBody : Instr → List Byte
  | .new _ rst bl => [newFlags rst bl]
  | .release => []
  | .hardReset => []
  | .init => []
  | .orientation => []
  | .setOrientation o => [(orientCode o).setWidth 8]
  | .setAddressWindow sx sy ex ey => be16 sx ++ be16 sy ++ be16 ex ++ be16 ey
  | .setPixel x y color => be16 x ++ be16 y ++ be16 color
  | .setPixels sx sy ex ey colors =>
    be16 sx ++ be16 sy ++ be16 ex ++ be16 ey ++ be32 colors.length ++ colorBytes colors
  | .writeRaw buf => be32 buf.length ++ buf

/-- The frame of a typed request (R61): the selector, then the operand bytes. -/
def encode (i : Instr) : List Byte := selOf (opNameOf i) :: encodeBody i

/-- The handles that travel beside the frame (R64). A port no flag names carries any handle (log entry 14). -/
def encodePorts : Instr → Ports
  | .new chan rst bl => ⟨chan, rst.getD default, bl.getD default⟩
  | _ => default

/-- The ports of a word the host's table gives: no handle is in its bits (log entry 15). -/
def tablePorts : Ports := ⟨.first, .first, .first⟩

/-- The first `k` bytes of a number whose byte 0 is its least significant byte. -/
def bytesOfNat (k w : Nat) : List Byte := (List.range k).map fun i => BitVec.ofNat 8 (w >>> (8 * i))

/-- The frame whose bits are `w`, byte 0 the least significant, every bit above `nbits` 0: at least `nbits / 8` bytes,
and as many as its own selector and count ask for (log entry 15). -/
def frameOfWord (nbits w : Nat) : List Byte :=
  let v := w % 2 ^ nbits
  match opOfSel (BitVec.ofNat 8 v) with
  | none => bytesOfNat (nbits / 8) v
  | some op => bytesOfNat (max (nbits / 8) (frameLength (formatOf op) (bytesOfNat (fixedBytes (formatOf op)) v))) v

/-- The instruction the decoder reads from a word of spec/opcode_table.json's numbering. -/
def decodeTableWord (nbits w : Nat) : Option Instr :=
  match decode tablePorts (frameOfWord nbits w) with
  | .ok i => some i
  | .error _ => none

end Sys2Proof
end

