-- ==== Sys2Proof/Machine/State.lean ====
section
/-! DEFINITION. The block state (R20), the event trace (R28), the primitives (R16), the host's inputs, and the state
after reset (R37, R230). Plain data throughout. -/

namespace Sys2Proof.Machine

/-- `S.life` (R21). -/
inductive Life where
  | absent
  | live
  | released
deriving DecidableEq, Repr

/-- `Level` of R28: the logical level a line is set to (D30: no electrical polarity). -/
inductive Level where
  | low
  | high
deriving DecidableEq, Repr

/-- The two error kinds of R200; no other cause is representable. -/
inductive Err where
  /-- A channel burst answered `FAIL` (R44, R45). -/
  | transport
  /-- A line answered `FAIL(e)` (R46). -/
  | pin (e : PinErr)
deriving DecidableEq, Repr

/-- The results of R201. -/
inductive Result where
  | ok
  /-- The answer of `orientation`. -/
  | okOrientation (o : Orientation)
  /-- The answer of `release`: the handles given to `new`. -/
  | okHandles (chan : Chan) (rst : Option RstLine) (bl : Option BlLine)
  | error (e : Err)
deriving DecidableEq, Repr

/-- `Ev` of R28: one event of the trace. -/
inductive Ev where
  | beginEv (op : OpName)
  | cmdEv (b : Byte) (a : ChanAns)
  | dataEv (bs : List Byte) (a : ChanAns)
  | pinEv (line : Line) (lv : Level) (a : PinAns)
  | delayEv (us : Nat)
  | endEv (r : Result)
deriving DecidableEq, Repr

/-- The primitives a micro-program is made of (R16). -/
inductive Prim where
  | cmd (b : Byte)
  | data (bs : List Byte)
  | pin (line : Line) (lv : Level)
  | delay (us : Nat)
  | setOrient (o : Orientation)
deriving DecidableEq, Repr

/-- One request of the host (R60): its frame and the resource ports beside it. -/
structure Request where
  frame : List Byte
  ports : Ports
deriving DecidableEq, Repr

/-- A step of this machine ends in no fault: the errors of R200 are results in a next state (R203, R205). -/
inductive Fault
deriving DecidableEq, Repr

/-- The refusals: requests the spec gives no meaning (R207). All are safe: a refused run proves nothing. -/
inductive Refusal where
  /-- Raised by exec's arm of an instruction without a meaning; no arm is left so. Safe. -/
  | notModelled (mnemonic : String)
  /-- `IllegalRequest` of R207, raised by `step` on a frame that spells no operation (R66). Safe. -/
  | illegalRequest
  /-- `NotLive` of R207, raised by every request but `new` while the block is not Live (R21). Safe. -/
  | notLive
  /-- `ResourceOwned` of R207, raised by `new` while the block is Live (R100). Safe. -/
  | resourceOwned
deriving DecidableEq, Repr

/-- The block state `S` of R20, the observation `T` of R28 with the refusal marks of R207, and the model's own
inputs and counters (INVENTORY.md, State). -/
@[ext]
structure State where
  /-- `S.life` (R21). -/
  life : Life
  /-- `S.chan` (R22). -/
  chan : Chan
  /-- `S.rst` (R23). -/
  rst : Option RstLine
  /-- `S.bl` (R23). -/
  bl : Option BlLine
  /-- `S.orient` (R25). -/
  orient : Orientation
  /-- `S.upc` (R29). -/
  upc : Nat
  /-- The trace `T`, oldest event first (R28). -/
  trace : List Ev
  /-- The marks of refused requests, oldest first (R207). -/
  refusals : List Refusal
  /-- Input: the host's requests, next one first (log entry 5). -/
  reqs : List Request
  /-- Input: the channel's coming answers, next one first (R48, log entry 4). -/
  chanIn : List ChanAns
  /-- Input: the reset line's coming answers (R48, log entry 4). -/
  rstIn : List PinAns
  /-- Input: the backlight line's coming answers (R48, log entry 4). -/
  blIn : List PinAns
  /-- How many free channel answers have been drawn (log entry 4). -/
  chanFree : Nat
  /-- How many free reset-line answers have been drawn (log entry 4). -/
  rstFree : Nat
  /-- How many free backlight-line answers have been drawn (log entry 4). -/
  blFree : Nat
  /-- How many requests have left `upc` at a free value (log entry 3). -/
  upcFree : Nat
deriving DecidableEq, Repr

/-- Before the first `new` (R21, R37): `S.life = Absent`, an empty trace; the other fields have no value in the spec
and hold the model's (log entry 16). -/
def State.absent : State where
  life := .absent
  chan := .first
  rst := none
  bl := none
  orient := .orient00
  upc := 0
  trace := []
  refusals := []
  reqs := []
  chanIn := []
  rstIn := []
  blIn := []
  chanFree := 0
  rstFree := 0
  blFree := 0
  upcFree := 0

/-- The machine right after reset: the table of R37, which R230 calls the block's complete reset state. The handles are
"as given"; the model names one (log entry 1), as it does for `upc` (log entry 3) and the inputs (log entries 4, 5). -/
def State.reset : State where
  life := .live
  chan := .first
  rst := none
  bl := none
  orient := .orient00
  upc := 0
  trace := [.beginEv .new, .endEv .ok]
  refusals := []
  reqs := []
  chanIn := []
  rstIn := []
  blIn := []
  chanFree := 0
  rstFree := 0
  blFree := 0
  upcFree := 0

end Sys2Proof.Machine
end

