-- ==== Sys2Proof/Machine/Ops.lean ====
section
/-! DEFINITION. The named operations: the oracles (R48), the primitives (R44 to R47, R31), the executor (R30), the
start and end of a request (R28, R29), the abort (R203), refusal marks (R207), and the fetch of the next request. -/

namespace Sys2Proof.Machine

/-- The outcome type of this machine. -/
abbrev Out := Host.Outcome State Fault Refusal

/-- `T <- T ++ [e]` (R28). -/
def emit (e : Ev) (s : State) : State := { s with trace := s.trace ++ [e] }

/-- `ChanOracle()` (R48): the next listed answer, else a free one. -/
def chanOracle (s : State) : ChanAns × State :=
  match s.chanIn with
  | a :: rest => (a, { s with chanIn := rest })
  | [] => (Config.freeChanAns s.chanFree, { s with chanFree := s.chanFree + 1 })

/-- `PinOracle(line)` (R48): the line's next listed answer, else a free one. -/
def pinOracle (line : Line) (s : State) : PinAns × State :=
  match line with
  | .rst =>
    match s.rstIn with
    | a :: rest => (a, { s with rstIn := rest })
    | [] => (Config.freePinAns .rst s.rstFree, { s with rstFree := s.rstFree + 1 })
  | .bl =>
    match s.blIn with
    | a :: rest => (a, { s with blIn := rest })
    | [] => (Config.freePinAns .bl s.blFree, { s with blFree := s.blFree + 1 })

/-- The `k`-th answer the channel is about to give (0 the next one). -/
def chanAnsAt (s : State) (k : Nat) : ChanAns :=
  match s.chanIn[k]? with
  | some a => a
  | none => Config.freeChanAns (s.chanFree + (k - s.chanIn.length))

/-- The `k`-th answer the reset line is about to give. -/
def rstAnsAt (s : State) (k : Nat) : PinAns :=
  match s.rstIn[k]? with
  | some a => a
  | none => Config.freePinAns .rst (s.rstFree + (k - s.rstIn.length))

/-- The `k`-th answer the backlight line is about to give. -/
def blAnsAt (s : State) (k : Nat) : PinAns :=
  match s.blIn[k]? with
  | some a => a
  | none => Config.freePinAns .bl (s.blFree + (k - s.blIn.length))

/-- What a channel answer raises (R44, R45). -/
def chanErr : ChanAns → Option Err
  | .ok => none
  | .fail => some .transport

/-- What a line's answer raises (R46). -/
def pinErr : PinAns → Option Err
  | .ok => none
  | .fail e => some (.pin e)

/-- `CMD(b)` (R44). -/
def primCmd (b : Byte) (s : State) : State × Option Err :=
  let (a, t) := chanOracle s
  (emit (.cmdEv b a) t, chanErr a)

/-- `DATA(bs)` (R45). -/
def primData (bs : List Byte) (s : State) : State × Option Err :=
  let (a, t) := chanOracle s
  (emit (.dataEv bs a) t, chanErr a)

/-- `PIN(line, lv)` (R46). -/
def primPin (line : Line) (lv : Level) (s : State) : State × Option Err :=
  let (a, t) := pinOracle line s
  (emit (.pinEv line lv a) t, pinErr a)

/-- `DELAY(us)` (R47): it never fails. -/
def primDelay (us : Nat) (s : State) : State × Option Err := (emit (.delayEv us) s, none)

/-- `SETORIENT(o)` (R31): no event, no access, no failure. -/
def primSetOrient (o : Orientation) (s : State) : State × Option Err := ({ s with orient := o }, none)

/-- One primitive: its state and what it raises (R15). -/
def stepPrim (p : Prim) (s : State) : State × Option Err :=
  match p with
  | .cmd b => primCmd b s
  | .data bs => primData bs s
  | .pin line lv => primPin line lv s
  | .delay us => primDelay us s
  | .setOrient o => primSetOrient o s

/-- `S.upc <- S.upc + 1` (R29). -/
def advance (s : State) : State := { s with upc := s.upc + 1 }

/-- `Exec` of R30 from the current `upc`: the primitives in order, `upc` advanced after each that does not raise, and an
end at the first that does. The loop of R30 by index is `execLoop`. -/
def runPrims : List Prim → State → State × Option Err
  | [], s => (s, none)
  | p :: ps, s =>
    match stepPrim p s with
    | (t, some e) => (t, some e)
    | (t, none) => runPrims ps (advance t)

/-- The loop of R30 read literally: while `S.upc < len(prog)`, run `prog[S.upc]`. The fuel bounds its rounds. -/
def execLoop : Nat → List Prim → State → State × Option Err
  | 0, _, s => (s, none)
  | fuel + 1, prog, s =>
    match prog[s.upc]? with
    | none => (s, none)
    | some p =>
      match stepPrim p s with
      | (t, some e) => (t, some e)
      | (t, none) => execLoop fuel prog (advance t)

/-- A request starts: its `BeginEv`, and `S.upc <- 0` (R28, R29). -/
def beginRequest (op : OpName) (s : State) : State := { emit (.beginEv op) s with upc := 0 }

/-- A request ends: its `EndEv`, and `upc` at no defined value (R201, R20; log entry 3). -/
def endRequest (r : Result) (s : State) : State :=
  { emit (.endEv r) s with upc := Config.freeUpc s.upcFree, upcFree := s.upcFree + 1 }

/-- The abort, the block's one exception (R203): the request ends with the error value; nothing is rolled back, saved
or masked, and the block stays as it is, ready for the next request (R205). -/
def abortRequest (e : Err) (s : State) : State := endRequest (.error e) s

/-- The return to the host (R205): `Ok` when the micro-program ran through (R30), the abort when it raised. -/
def finishRequest : State × Option Err → State
  | (s, none) => endRequest .ok s
  | (s, some e) => abortRequest e s

/-- A request that runs a micro-program: refused unless Live (R21, R207), else begun, run and ended. -/
def serveProgram (op : OpName) (prog : List Prim) (s : State) : Out :=
  if s.life = .live then .next (finishRequest (runPrims prog (beginRequest op s))) else .refused .notLive

/-- Primitives a micro-program keeps only when a line is present (R16, R30). -/
def guarded (present : Bool) (ps : List Prim) : List Prim := if present then ps else []

/-- The next request and the state it is accepted in (R217). -/
def fetch (s : State) : Option (Request × State) :=
  match s.reqs with
  | [] => none
  | r :: rest => some (r, { s with reqs := rest })

/-- A request put in front of the host's others. -/
def placeRequest (r : Request) (s : State) : State := { s with reqs := r :: s.reqs }

/-- A refused request (R207): no response and no event, the mark kept for the whole run, the block as it was. -/
def markRefused (r : Refusal) (s : State) : State := { s with reqs := s.reqs.tail, refusals := s.refusals ++ [r] }

end Sys2Proof.Machine
end

