-- ==== Sys2Proof/Machine/InitSequencer.lean ====
section
/-! DEFINITION. tft_init_sequencer: the reset pulse (R110), the backlight fragment (R111) and the initialisation
program (R112, R113), with the fixed delays of R10. -/

namespace Sys2Proof.Machine

/-- `BL_SETTLE_US` (R10). -/
def blSettleUs : Nat := 10000

/-- `SWRESET_US` (R10). -/
def swresetUs : Nat := 150000

/-- `SLPOUT_US` (R10). -/
def slpoutUs : Nat := 10000

/-- `DISPON_US` (R10). -/
def disponUs : Nat := 10000

/-- `HRST` of R110: high, low, high, each held for the pulse time; nothing without a reset line. -/
def hrst (cfg : Config) (rst : Option RstLine) : List Prim :=
  guarded rst.isSome
    [.pin .rst .high, .delay (resetPulseUs cfg), .pin .rst .low, .delay (resetPulseUs cfg),
      .pin .rst .high, .delay (resetPulseUs cfg)]

/-- `BLS` of R111: low, settle, high; nothing without a backlight line. -/
def bls (bl : Option BlLine) : List Prim :=
  guarded bl.isSome [.pin .bl .low, .delay blSettleUs, .pin .bl .high]

/-- An init command and its parameter string, one burst (D6). -/
def paramCommand (cfg : Config) (c : CommandName) (p : ParamName) : List Prim :=
  [.cmd (cfg.opc c), .data (paramBytes (cfg.param p))]

/-- Step 5 of R112. -/
def initStep5 (cfg : Config) : List Prim :=
  paramCommand cfg .pgam .pgam ++ paramCommand cfg .ngam .ngam ++ paramCommand cfg .pwr1 .pwr1
    ++ paramCommand cfg .pwr2 .pwr2 ++ paramCommand cfg .vcom .vcom

/-- The cache write after step 6 (R113), under `SetDefault` only. -/
def initCacheWrite (cfg : Config) : List Prim :=
  match cfg.cachePolicy with
  | .setDefault => [.setOrient defaultOrientation]
  | .keep => []

/-- Step 8 of R112. -/
def initStep8 (cfg : Config) : List Prim :=
  paramCommand cfg .ifmode .ifmode ++ paramCommand cfg .frmctr .frmctr ++ paramCommand cfg .invctr .invctr
    ++ paramCommand cfg .disctrl .disctrl ++ paramCommand cfg .etmod .etmod ++ paramCommand cfg .adjctl3 .adjctl3

/-- `INIT` of R112, its guards resolved against the lines present (R30). -/
def initProgram (cfg : Config) (rst : Option RstLine) (bl : Option BlLine) : List Prim :=
  hrst cfg rst
    ++ bls bl
    ++ [.cmd (cfg.opc .swreset), .delay swresetUs]
    ++ [.cmd (cfg.opc .slpout), .delay slpoutUs]
    ++ initStep5 cfg
    ++ [.cmd (cfg.opc .madctl), .data [cfg.initMadctl]]
    ++ initCacheWrite cfg
    ++ [.cmd (cfg.opc .colmod), .data [cfg.colmodByte]]
    ++ initStep8 cfg
    ++ [.cmd (cfg.opc .slpout), .delay slpoutUs]
    ++ [.cmd (cfg.opc .dispon), .delay disponUs]

/-- `hard_reset(delay)` (R110). -/
def execHardReset (s : State) : Out := serveProgram .hardReset (hrst Config.board s.rst) s

/-- `init(delay)` (R112). -/
def execInit (s : State) : Out := serveProgram .init (initProgram Config.board s.rst s.bl) s

end Sys2Proof.Machine
end

