-- ==== Sys2Proof/Machine/Lifecycle.lean ====
section
/-! DEFINITION. Construction and release of the driver state (R100, R101). -/

namespace Sys2Proof.Machine

/-- The writes of `new` (R100, R37): no I/O, and the default orientation (R26). -/
def construct (chan : Chan) (rst : Option RstLine) (bl : Option BlLine) (s : State) : State :=
  { s with life := .live, chan := chan, rst := rst, bl := bl, orient := defaultOrientation }

/-- `new(chan, rst?, bl?)` (R100): refused ResourceOwned while Live; it cannot fail. -/
def execNew (chan : Chan) (rst : Option RstLine) (bl : Option BlLine) (s : State) : Out :=
  if s.life = .live then .refused .resourceOwned
  else .next (endRequest .ok (construct chan rst bl (beginRequest .new s)))

/-- `release()` (R101): the handles of `new` go back and the life ends; nothing is driven. -/
def execRelease (s : State) : Out :=
  if s.life = .live then
    .next (endRequest (.okHandles s.chan s.rst s.bl) { beginRequest .release s with life := .released })
  else .refused .notLive

end Sys2Proof.Machine
end

