-- ==== Sys2Proof/Machine/OrientationControl.lean ====
section
/-! DEFINITION. tft_init_sequencer: orientation control (R140, R141). -/

namespace Sys2Proof.Machine

/-- `SETO(o)` of R141: both bursts first, the cache last. -/
def seto (cfg : Config) (o : Orientation) : List Prim :=
  [.cmd (cfg.opc .madctl), .data [pat o], .setOrient o]

/-- `orientation()` (R140): the cached value, no I/O. -/
def execOrientation (s : State) : Out :=
  if s.life = .live then .next (endRequest (.okOrientation s.orient) (beginRequest .orientation s))
  else .refused .notLive

/-- `set_orientation(o)` (R141). -/
def execSetOrientation (o : Orientation) (s : State) : Out :=
  serveProgram .setOrientation (seto Config.board o) s

end Sys2Proof.Machine
end

