-- ==== Sys2Proof/Machine/AddressWindow.lean ====
section
/-! DEFINITION. address_window_encoder (R150). -/

namespace Sys2Proof.Machine

/-- `WIN(sx, sy, ex, ey)` of R150: the column bounds `sx, ex`, then the row bounds `sy, ey`, unchecked. -/
def win (cfg : Config) (sx sy ex ey : U16) : List Prim :=
  [.cmd (cfg.opc .caset), .data (be16 sx), .data (be16 ex),
    .cmd (cfg.opc .raset), .data (be16 sy), .data (be16 ey)]

/-- `set_address_window(sx, sy, ex, ey)` (R150). -/
def execSetAddressWindow (sx sy ex ey : U16) (s : State) : Out :=
  serveProgram .setAddressWindow (win Config.board sx sy ex ey) s

end Sys2Proof.Machine
end

