-- ==== Sys2Proof/Machine/PixelStream.lean ====
section
/-! DEFINITION. pixel_stream_mux: the memory-write step (R163), the typed path (R160, R161) and the raw path (R162). -/

namespace Sys2Proof.Machine

/-- `MW(payload)` of R163. -/
def mw (cfg : Config) (payload : List Byte) : List Prim := [.cmd (cfg.opc .ramwr), .data payload]

/-- `set_pixel(x, y, color)` (R160). -/
def execSetPixel (x y color : U16) (s : State) : Out :=
  serveProgram .setPixel (win Config.board x y x y ++ mw Config.board (be16 color)) s

/-- `set_pixels(sx, sy, ex, ey, colors)` (R161): one colour burst whatever the count, empty for none (D11). -/
def execSetPixels (sx sy ex ey : U16) (colors : List U16) (s : State) : Out :=
  serveProgram .setPixels (win Config.board sx sy ex ey ++ mw Config.board (colorBytes colors)) s

/-- `write_raw(buf)` (R162): the buffer verbatim, unchecked. -/
def execWriteRaw (buf : List Byte) (s : State) : Out := serveProgram .writeRaw (mw Config.board buf) s

end Sys2Proof.Machine
end

