-- ==== Sys2Proof/Machine/Dispatch.lean ====
section
/-! DEFINITION. One arm per request (R63), each one call of its meaning. -/

namespace Sys2Proof.Machine

def exec (i : Instr) (s : State) : Host.Outcome State Fault Refusal :=
  match i with
  | .new chan rst bl => Sys2Proof.Machine.execNew chan rst bl s
  | .release => Sys2Proof.Machine.execRelease s
  | .hardReset => Sys2Proof.Machine.execHardReset s
  | .init => Sys2Proof.Machine.execInit s
  | .orientation => Sys2Proof.Machine.execOrientation s
  | .setOrientation o => Sys2Proof.Machine.execSetOrientation o s
  | .setAddressWindow sx sy ex ey => Sys2Proof.Machine.execSetAddressWindow sx sy ex ey s
  | .setPixel x y color => Sys2Proof.Machine.execSetPixel x y color s
  | .setPixels sx sy ex ey colors => Sys2Proof.Machine.execSetPixels sx sy ex ey colors s
  | .writeRaw buf => Sys2Proof.Machine.execWriteRaw buf s

end Sys2Proof.Machine
end

