-- ==== Sys2Proof/Machine/Step.lean ====
section
/-! DEFINITION. One step: the next request, decoded and served to completion (R4, R50, R217). -/

namespace Sys2Proof.Machine

/-- One step serves one request (log entry 17). Without one the block is idle and nothing happens (R208, R216). A frame that spells no
operation is refused (R66, R207). -/
def step (s : State) : Host.Outcome State Fault Refusal :=
  match fetch s with
  | none => .next s
  | some (r, t) =>
    match decode r.ports r.frame with
    | .ok i => exec i t
    | .error _ => .refused .illegalRequest

/-- The state with a table word's frame as the host's next request (log entries 1 and 15). -/
def State.withFetchWord (s : State) (nbits w : Nat) : State := placeRequest ⟨frameOfWord nbits w, tablePorts⟩ s

end Sys2Proof.Machine
end

