-- ==== Sys2Proof/Machine/Assembler.lean ====
section
/-! DEFINITION. The assembler syntax of R75, one request a line, and the pseudo-instructions of R76. The lexical details
R75 leaves open are log entry 20. -/

namespace Sys2Proof.Machine

/-- What a pseudo-instruction expands to (R76). -/
def expand : Pseudo → List Instr
  | .powerUp => [.hardReset, .init]
  | .blit sx sy ex ey buf => [.setAddressWindow sx sy ex ey, .writeRaw buf]

/-- The tokens of a line. -/
inductive Tok where
  | word (cs : List Char)
  | comma
  | lbrace
  | rbrace
deriving DecidableEq, Repr

/-- A letter, a digit or an underscore. -/
def isWordChar (c : Char) : Bool := c.isAlphanum || c == '_'

/-- What a character outside a word stands for: white space nothing, other characters an error. -/
def sepToks (c : Char) : Option (List Tok) :=
  if c = ' ' ∨ c = '\t' then some []
  else if c = ',' then some [.comma]
  else if c.toNat = 0x7B then some [.lbrace]
  else if c.toNat = 0x7D then some [.rbrace]
  else none

/-- The word read so far (last character first) put before the tokens after it. -/
def flushWord (acc : List Char) (ts : List Tok) : List Tok :=
  match acc with
  | [] => ts
  | _ => .word acc.reverse :: ts

/-- The tokens of a line up to a `;` comment. -/
def lexLine : List Char → List Char → Option (List Tok)
  | [], acc => some (flushWord acc [])
  | c :: cs, acc =>
    if c = ';' then some (flushWord acc [])
    else if isWordChar c then lexLine cs (c :: acc)
    else
      match sepToks c, lexLine cs [] with
      | some ts, some rest => some (flushWord acc (ts ++ rest))
      | _, _ => none

/-- A digit's value in a base. -/
def digitOf (base : Nat) (c : Char) : Option Nat :=
  let v :=
    if c.isDigit then c.toNat - 0x30
    else if 0x61 ≤ c.toNat ∧ c.toNat ≤ 0x66 then c.toNat - 0x61 + 10
    else if 0x41 ≤ c.toNat ∧ c.toNat ≤ 0x46 then c.toNat - 0x41 + 10
    else base
  if v < base then some v else none

/-- The value of digits in a base, `acc` the value so far. -/
def digitsOf (base : Nat) : Nat → List Char → Option Nat
  | acc, [] => some acc
  | acc, c :: cs =>
    match digitOf base c with
    | some v => digitsOf base (acc * base + v) cs
    | none => none

/-- "Numbers are decimal or `0x` hexadecimal" (R75). -/
def numberOf : List Char → Option Nat
  | '0' :: 'x' :: d :: ds => digitsOf 16 0 (d :: ds)
  | d :: ds => digitsOf 10 0 (d :: ds)
  | [] => none

/-- A coordinate or colour: outside 0..65535 it is an assembly error (R75). -/
def u16Of (w : List Char) : Option U16 :=
  match numberOf w with
  | some n => if n < 2 ^ 16 then some (BitVec.ofNat 16 n) else none
  | none => none

/-- A raw byte: outside 0..255 it is an assembly error (R75). -/
def byteOf (w : List Char) : Option Byte :=
  match numberOf w with
  | some n => if n < 2 ^ 8 then some (BitVec.ofNat 8 n) else none
  | none => none

/-- The elements of a brace list after its first, up to its closing brace, which ends the line. -/
def bracedRest {α : Type} (item : List Char → Option α) : List Tok → Option (List α)
  | [.rbrace] => some []
  | .comma :: .word w :: rest =>
    match item w, bracedRest item rest with
    | some a, some as => some (a :: as)
    | _, _ => none
  | _ => none

/-- The elements of a brace list after its opening brace; an empty one is `n = 0` (R75). -/
def braced {α : Type} (item : List Char → Option α) : List Tok → Option (List α)
  | [.rbrace] => some []
  | .word w :: rest =>
    match item w, bracedRest item rest with
    | some a, some as => some (a :: as)
    | _, _ => none
  | _ => none

/-- The orientation names of R24. -/
def orientOfName (w : List Char) : Option Orientation :=
  if w = "ORIENT_00".toList then some .orient00
  else if w = "ORIENT_60".toList then some .orient60
  else if w = "ORIENT_C0".toList then some .orientC0
  else if w = "ORIENT_A0".toList then some .orientA0
  else none

/-- The operands of `new`: which lines are present. -/
def asmNew (p : Ports) : List Tok → Option (List Instr)
  | [] => some [.new p.chan none none]
  | [.word a] =>
    if a = "rst".toList then some [.new p.chan (some p.rst) none]
    else if a = "bl".toList then some [.new p.chan none (some p.bl)]
    else none
  | [.word a, .comma, .word b] =>
    if a = "rst".toList ∧ b = "bl".toList then some [.new p.chan (some p.rst) (some p.bl)] else none
  | _ => none

/-- A request without operands. -/
def asmNone (is : List Instr) : List Tok → Option (List Instr)
  | [] => some is
  | _ => none

/-- The operand of `set_orientation`. -/
def asmOri : List Tok → Option (List Instr)
  | [.word a] => (orientOfName a).map fun o => [.setOrientation o]
  | _ => none

/-- The four bounds of `set_address_window`. -/
def asmWin : List Tok → Option (List Instr)
  | [.word a, .comma, .word b, .comma, .word c, .comma, .word d] =>
    match u16Of a, u16Of b, u16Of c, u16Of d with
    | some sx, some sy, some ex, some ey => some [.setAddressWindow sx sy ex ey]
    | _, _, _, _ => none
  | _ => none

/-- The operands of `set_pixel`. -/
def asmPix : List Tok → Option (List Instr)
  | [.word a, .comma, .word b, .comma, .word c] =>
    match u16Of a, u16Of b, u16Of c with
    | some x, some y, some color => some [.setPixel x y color]
    | _, _, _ => none
  | _ => none

/-- The operands of `set_pixels`: `n` is counted from the braces. -/
def asmPixs : List Tok → Option (List Instr)
  | .word a :: .comma :: .word b :: .comma :: .word c :: .comma :: .word d :: .comma :: .lbrace :: rest =>
    match u16Of a, u16Of b, u16Of c, u16Of d, braced u16Of rest with
    | some sx, some sy, some ex, some ey, some colors => some [.setPixels sx sy ex ey colors]
    | _, _, _, _, _ => none
  | _ => none

/-- The operand of `write_raw`. -/
def asmRaw : List Tok → Option (List Instr)
  | .lbrace :: rest => (braced byteOf rest).map fun buf => [.writeRaw buf]
  | _ => none

/-- The operands of the pseudo-instruction `blit` (R76). -/
def asmBlit : List Tok → Option (List Instr)
  | .word a :: .comma :: .word b :: .comma :: .word c :: .comma :: .word d :: .comma :: .lbrace :: rest =>
    match u16Of a, u16Of b, u16Of c, u16Of d, braced byteOf rest with
    | some sx, some sy, some ex, some ey, some buf => some (expand (.blit sx sy ex ey buf))
    | _, _, _, _, _ => none
  | _ => none

/-- A line's tokens: the mnemonic of R63 or R76, then its operands. A line without tokens holds no request. -/
def asmToks (p : Ports) : List Tok → Option (List Instr)
  | [] => some []
  | .word m :: args =>
    if m = "new".toList then asmNew p args
    else if m = "release".toList then asmNone [.release] args
    else if m = "hard_reset".toList then asmNone [.hardReset] args
    else if m = "init".toList then asmNone [.init] args
    else if m = "orientation".toList then asmNone [.orientation] args
    else if m = "set_orientation".toList then asmOri args
    else if m = "set_address_window".toList then asmWin args
    else if m = "set_pixel".toList then asmPix args
    else if m = "set_pixels".toList then asmPixs args
    else if m = "write_raw".toList then asmRaw args
    else if m = "power_up".toList then asmNone (expand .powerUp) args
    else if m = "blit".toList then asmBlit args
    else none
  | _ => none

/-- The characters of a line: its requests in order, or none for an assembly error (R75). The line handles of `new`
come from the resource ports (R64). -/
def assembleChars (p : Ports) (line : List Char) : Option (List Instr) :=
  match lexLine line [] with
  | some ts => asmToks p ts
  | none => none

/-- A line of assembler text (R75). -/
def assembleLine (p : Ports) (line : String) : Option (List Instr) := assembleChars p line.toList

/-- The request of R64 a typed request makes: its frame and its ports. -/
def requestOf (i : Instr) : Request := ⟨encode i, encodePorts i⟩

/-- A line's requests as frames. A count past the four bytes of R64, for which no frame exists, is an assembly error: R75
names none, so this is the model's choice (DESIGN CHOICE, log entry 25). -/
def assembleRequests (p : Ports) (line : String) : Option (List Request) :=
  match assembleLine p line with
  | some is => if is.all Instr.wf then some (is.map requestOf) else none
  | none => none

/-- A program's lines, assembled to the host's requests in order (R75: "each line assembles to the frame"). -/
def assemble (p : Ports) : List String → Option (List Request)
  | [] => some []
  | l :: ls =>
    match assembleRequests p l, assemble p ls with
    | some rs, some rest => some (rs ++ rest)
    | _, _ => none

end Sys2Proof.Machine
end

