-- ==== Sys2Proof/Machine/DefaultCfg.lean ====
section
/-! DEFINITION. DEFAULT_CFG, the spec's executable default configuration (R72 to R74, D8, D9). It is an example for
tests: no meaning uses it, and it is no evidence of the build's values (93_implementation_defined.md G1, G2). -/

namespace Sys2Proof.Machine

/-- The DEFAULT_CFG column of R72 and R73. -/
def defaultOpc : CommandName → Byte
  | .nop => 0x00
  | .swreset => 0x01
  | .slpin => 0x10
  | .slpout => 0x11
  | .invoff => 0x20
  | .invon => 0x21
  | .dispoff => 0x28
  | .dispon => 0x29
  | .caset => 0x2A
  | .raset => 0x2B
  | .ramwr => 0x2C
  | .ramrd => 0x2E
  | .madctl => 0x36
  | .pgam => 0xE0
  | .ngam => 0xE1
  | .pwr1 => 0xC0
  | .pwr2 => 0xC1
  | .vcom => 0xC5
  | .colmod => 0x3A
  | .ifmode => 0xB0
  | .frmctr => 0xB1
  | .invctr => 0xB4
  | .disctrl => 0xB6
  | .etmod => 0xB7
  | .adjctl3 => 0xF7

/-- The DEFAULT_CFG strings of R74. -/
def defaultParam : ParamName → ParamBytes
  | .pgam => ⟨0x00, [0x03, 0x09, 0x08, 0x16, 0x0A, 0x3F, 0x78, 0x4C, 0x09, 0x0A, 0x08, 0x16, 0x1A, 0x0F]⟩
  | .ngam => ⟨0x00, [0x16, 0x19, 0x03, 0x0F, 0x05, 0x32, 0x45, 0x46, 0x04, 0x0E, 0x0D, 0x35, 0x37, 0x0F]⟩
  | .pwr1 => ⟨0x17, [0x15]⟩
  | .pwr2 => ⟨0x41, []⟩
  | .vcom => ⟨0x00, [0x12, 0x80]⟩
  | .ifmode => ⟨0x00, []⟩
  | .frmctr => ⟨0xA0, []⟩
  | .invctr => ⟨0x02, []⟩
  | .disctrl => ⟨0x02, [0x02, 0x3B]⟩
  | .etmod => ⟨0xC6, []⟩
  | .adjctl3 => ⟨0xA9, [0x51, 0x2C, 0x82]⟩

/-- DEFAULT_CFG: `P_INIT_MADCTL` 0x00, `P_COLMOD` 0x66, `RESET_PULSE_US` 100 (D8), `SetDefault` (D9). It names no handle or
payload type, and nothing reads those of `defaultCfg`. -/
def defaultCfg : Config where
  opc := defaultOpc
  param := defaultParam
  initMadctl := 0x00
  colmodByte := 0x66
  resetPulseOver := 0
  cachePolicy := .setDefault
  chanTokens := fun _ => false
  rstTokens := fun _ => false
  blTokens := fun _ => false
  pinErrTokens := fun _ => false

end Sys2Proof.Machine
end

