-- ==== Sys2Proof/Machine/Serve.lean ====
section
/-! DEFINITION. The host's loop (R217) over `step`: a refused request leaves its mark and the run goes on (R207;
95_test_vectors.md P4). -/

namespace Sys2Proof.Machine

/-- One request of the host: its next state, or its refusal's mark (log entry 6). -/
def serve (s : State) : State :=
  match step s with
  | .next t => t
  | .fault f => nomatch f
  | .refused r => markRefused r s

/-- `n` requests, one after another. -/
def serveAll : Nat → State → State
  | 0, s => s
  | n + 1, s => serveAll n (serve s)

/-- Requests in their typed form, one after another, to the first that is refused. -/
def execAll : List Instr → State → Host.Outcome State Fault Refusal
  | [], s => .next s
  | i :: is, s =>
    match exec i s with
    | .next t => execAll is t
    | .fault f => .fault f
    | .refused r => .refused r

end Sys2Proof.Machine
end

