-- ==== Sys2Proof/Machine/Flags.lean ====
section
/-! DEFINITION. The block has no flags (R33): the one status an operation produces is its result. This file holds what
a result looks like to the host: the response frames of R62 and the results each operation may have (R201, R202). -/

namespace Sys2Proof.Machine

/-- A response (R62): its bytes, and what travels beside them (log entry 22). -/
structure Response where
  bytes : List Byte
  /-- The payload of `Pin(e)`, beside the frame. -/
  pinErr : Option PinErr
  /-- The handles `release` gives back on the resource ports. -/
  handles : Option (Chan × Option RstLine × Option BlLine)
deriving DecidableEq, Repr

/-- The status byte of a result (R62, R200). -/
def statusByte : Result → Byte
  | .ok => 0x00
  | .okOrientation _ => 0x00
  | .okHandles _ _ _ => 0x00
  | .error .transport => 0x01
  | .error (.pin _) => 0x02

/-- The response of a request that ended with a result (R62). -/
def responseOf (r : Result) : Response :=
  match r with
  | .ok => ⟨[statusByte r], none, none⟩
  | .okOrientation o => ⟨[statusByte r, (orientCode o).setWidth 8], none, none⟩
  | .okHandles chan rst bl => ⟨[statusByte r], none, some (chan, rst, bl)⟩
  | .error .transport => ⟨[statusByte r], none, none⟩
  | .error (.pin e) => ⟨[statusByte r], some e, none⟩

/-- The operations `Transport` is possible for (R202). -/
def mayTransport : OpName → Bool
  | .new => false
  | .release => false
  | .hardReset => false
  | .orientation => false
  | .init => true
  | .setOrientation => true
  | .setAddressWindow => true
  | .setPixel => true
  | .setPixels => true
  | .writeRaw => true

/-- The operations `Pin(e)` is possible for, given which lines are present (R202). -/
def mayPin (rst bl : Bool) : OpName → Bool
  | .hardReset => rst
  | .init => rst || bl
  | .new => false
  | .release => false
  | .orientation => false
  | .setOrientation => false
  | .setAddressWindow => false
  | .setPixel => false
  | .setPixels => false
  | .writeRaw => false

/-- The form of an operation's success (R201). -/
def successForm (op : OpName) (r : Result) : Bool :=
  match op, r with
  | .orientation, .okOrientation _ => true
  | .release, .okHandles _ _ _ => true
  | .new, .ok => true
  | .hardReset, .ok => true
  | .init, .ok => true
  | .setOrientation, .ok => true
  | .setAddressWindow, .ok => true
  | .setPixel, .ok => true
  | .setPixels, .ok => true
  | .writeRaw, .ok => true
  | _, _ => false

/-- The results R201 and R202 allow an operation. -/
def resultAllowed (rst bl : Bool) (op : OpName) (r : Result) : Bool :=
  match r with
  | .error .transport => mayTransport op
  | .error (.pin _) => mayPin rst bl op
  | .ok => successForm op r
  | .okOrientation _ => successForm op r
  | .okHandles _ _ _ => successForm op r

end Sys2Proof.Machine
end

