-- ==== Sys2Proof/Machine/Trace.lean ====
section
/-! DEFINITION. What a claim reads off the trace (R5, R28): the channel projection, the controller's command context
(R35), line levels (R23), delays (R241), results and responses (R62), the fault history (R205), the bytes a controller
may have received (R48), the orientation last written (R25), and the pixel count of a window (R152). -/

namespace Sys2Proof.Machine

/-- A channel event: `CmdEv` or `DataEv` (R28). -/
def isChanEv : Ev → Bool
  | .cmdEv _ _ => true
  | .dataEv _ _ => true
  | .beginEv _ => false
  | .pinEv _ _ _ => false
  | .delayEv _ => false
  | .endEv _ => false

/-- The channel projection `chan(T)` (R28). Burst boundaries are kept (R57). -/
def chanEvents (T : List Ev) : List Ev := T.filter isChanEv

/-- The bytes an event hands to the channel. -/
def evBytes : Ev → List Byte
  | .cmdEv b _ => [b]
  | .dataEv bs _ => bs
  | .beginEv _ => []
  | .pinEv _ _ _ => []
  | .delayEv _ => []
  | .endEv _ => []

/-- The concatenated channel bytes of a trace. -/
def channelBytes (T : List Ev) : List Byte := T.flatMap evBytes

/-- The command an event puts the controller in, whatever its answer (R35). -/
def evCommand : Ev → Option Byte
  | .cmdEv b _ => some b
  | .dataEv _ _ => none
  | .beginEv _ => none
  | .pinEv _ _ _ => none
  | .delayEv _ => none
  | .endEv _ => none

/-- `ctx(T)` of R35: the byte of the last `CmdEv`, or none. -/
def ctx (T : List Ev) : Option Byte := (T.filterMap evCommand).getLast?

/-- The level an event successfully set a line to (R23). -/
def evLevel (line : Line) : Ev → Option Level
  | .pinEv l lv .ok => if l = line then some lv else none
  | .pinEv _ _ (.fail _) => none
  | .cmdEv _ _ => none
  | .dataEv _ _ => none
  | .beginEv _ => none
  | .delayEv _ => none
  | .endEv _ => none

/-- The level a line last received: that of its last successful `PinEv` in the whole of the trace, unknown before one
(R23, R37). After `release` and a second `new`, even with another handle, it is still the earlier lifetime's, where R37
calls it unknown until the first `PIN` (DESIGN CHOICE, log entry 24). -/
def lineLevel (line : Line) (T : List Ev) : Option Level := (T.filterMap (evLevel line)).getLast?

/-- A pin event. -/
def isPinEv : Ev → Bool
  | .pinEv _ _ _ => true
  | .cmdEv _ _ => false
  | .dataEv _ _ => false
  | .beginEv _ => false
  | .delayEv _ => false
  | .endEv _ => false

/-- The microseconds an event waits. -/
def evDelay : Ev → Option Nat
  | .delayEv us => some us
  | .cmdEv _ _ => none
  | .dataEv _ _ => none
  | .beginEv _ => none
  | .pinEv _ _ _ => none
  | .endEv _ => none

/-- The requested delays of a trace, in order (R241). -/
def delaysOf (T : List Ev) : List Nat := T.filterMap evDelay

/-- The result an event carries. -/
def evResult : Ev → Option Result
  | .endEv r => some r
  | .cmdEv _ _ => none
  | .dataEv _ _ => none
  | .beginEv _ => none
  | .pinEv _ _ _ => none
  | .delayEv _ => none

/-- The results of the requests served, in order (R201). -/
def resultsOf (T : List Ev) : List Result := T.filterMap evResult

/-- The responses the host got back (R62). A refused request has none. -/
def responsesOf (T : List Ev) : List Response := (resultsOf T).map responseOf

/-- The error of a result. -/
def resultErr : Result → Option Err
  | .error e => some e
  | .ok => none
  | .okOrientation _ => none
  | .okHandles _ _ _ => none

/-- The fault history R205 lets a model keep: every error of the run, in order. -/
def errorsOf (T : List Ev) : List Err := (resultsOf T).filterMap resultErr

/-- A byte as the controller receives it: as an opcode or as data. -/
inductive WireByte where
  | cmd (b : Byte)
  | data (b : Byte)
deriving DecidableEq, Repr

/-- What an event may have delivered to the controller (R48, D10): an accepted burst the whole of it, a failed command
all or nothing, a failed data burst any of its beginnings. -/
def evDeliveries : Ev → List (List WireByte)
  | .cmdEv b .ok => [[.cmd b]]
  | .cmdEv b .fail => [[], [.cmd b]]
  | .dataEv bs .ok => [bs.map .data]
  | .dataEv bs .fail => (List.range (bs.length + 1)).map fun n => (bs.take n).map .data
  | .beginEv _ => [[]]
  | .pinEv _ _ _ => [[]]
  | .delayEv _ => [[]]
  | .endEv _ => [[]]

/-- Every byte stream the controller may have received over a trace (R48: every beginning is admitted; log entry 11). -/
def deliveries : List Ev → List (List WireByte)
  | [] => [[]]
  | e :: T => (evDeliveries e).flatMap fun a => (deliveries T).map fun b => a ++ b

/-- Where a reading of the trace for the orientation register stands: the request, how many of its bursts were accepted,
and the orientation last written. -/
structure OrientScan where
  op : Option OpName
  bursts : Nat
  orient : Orientation
deriving DecidableEq, Repr

/-- The orientation after an accepted burst, the `bursts`-th of its request: `set_orientation` writes it with its data
burst (R141), `init` with its 14th burst under `SetDefault` (R113, R115). -/
def scanBurst (policy : CachePolicy) (sc : OrientScan) (data : Option (List Byte)) : OrientScan :=
  let n := sc.bursts + 1
  match sc.op, data with
  | some .setOrientation, some bs => { sc with bursts := n, orient := (orientOfBurst bs).getD sc.orient }
  | some .init, _ =>
    if n = 14 ∧ policy = .setDefault then { sc with bursts := n, orient := defaultOrientation }
    else { sc with bursts := n }
  | _, _ => { sc with bursts := n }

/-- One event of the reading. A `new` that ends starts a lifetime at the default (R26). -/
def scanEv (policy : CachePolicy) (sc : OrientScan) : Ev → OrientScan
  | .beginEv op => { sc with op := some op, bursts := 0 }
  | .cmdEv _ .ok => scanBurst policy sc none
  | .dataEv bs .ok => scanBurst policy sc (some bs)
  | .cmdEv _ .fail => sc
  | .dataEv _ .fail => sc
  | .pinEv _ _ _ => sc
  | .delayEv _ => sc
  | .endEv _ => if sc.op = some .new then { sc with op := none, orient := defaultOrientation } else { sc with op := none }

/-- The orientation a trace says was last successfully written to the controller's orientation register, the default
before any (R25; the reading is log entry 8). Nothing of the block state is read. -/
def lastWritten (policy : CachePolicy) (T : List Ev) : Orientation :=
  (T.foldl (scanEv policy) ⟨none, 0, defaultOrientation⟩).orient

/-- The pixel count of a well-formed window, in unbounded naturals (R152); none for a reversed one. -/
def pixelCount (sx sy ex ey : U16) : Option Nat :=
  if sx.toNat ≤ ex.toNat ∧ sy.toNat ≤ ey.toNat then
    some ((ex.toNat - sx.toNat + 1) * (ey.toNat - sy.toNat + 1))
  else none

end Sys2Proof.Machine
end

