-- ==== Sys2Proof/Safety.lean ====
section
/-! DEFINITION. What a safe run is (R205, R207), and the shape every trace keeps: one request at a time, each stopped by
its first failure and ended by one allowed result (R50, R201 to R204, R235). -/

namespace Sys2Proof

open Sys2Proof.Machine

/-- A run with no refusal mark and no error (R205, R207). -/
def Safe (s : State) : Prop := s.refusals = [] ∧ errorsOf s.trace = []

/-- Where a reading of a trace stands. -/
inductive Phase where
  /-- Between requests. -/
  | idle
  /-- In a request, nothing failed; `fed` when the event before was an accepted burst. -/
  | running (op : OpName) (fed : Bool)
  /-- In a request after its failure: only its `EndEv` may follow (R203). -/
  | failed (e : Err)
  /-- The trace has no meaning. -/
  | broken
deriving DecidableEq, Repr

/-- The lines an operation may set (R110, R111). -/
def mayDrive : OpName → Line → Bool
  | .hardReset, .rst => true
  | .init, _ => true
  | _, _ => false

/-- The operations that wait (R64: the delay capability is a port of these two). -/
def mayDelay : OpName → Bool
  | .hardReset => true
  | .init => true
  | _ => false

/-- One event of the reading. A data burst follows an accepted burst of its own request with nothing between (R50). -/
def phaseEv : Phase → Ev → Phase
  | .idle, .beginEv op => .running op false
  | .running op _, .cmdEv _ .ok => if mayTransport op then .running op true else .broken
  | .running op _, .cmdEv _ .fail => if mayTransport op then .failed .transport else .broken
  | .running op true, .dataEv _ .ok => .running op true
  | .running _ true, .dataEv _ .fail => .failed .transport
  | .running op _, .pinEv line _ .ok => if mayDrive op line then .running op false else .broken
  | .running op _, .pinEv line _ (.fail e) => if mayDrive op line then .failed (.pin e) else .broken
  | .running op _, .delayEv _ => if mayDelay op then .running op false else .broken
  | .running op _, .endEv r => if successForm op r then .idle else .broken
  | .failed e, .endEv r => if r = .error e then .idle else .broken
  | _, _ => .broken

/-- A trace of whole requests, each of the shape above. -/
def LegalTrace (T : List Ev) : Prop := T.foldl phaseEv .idle = .idle

/-- The invariant of R25: the cache is the orientation the trace says was last successfully written (log entry 8). -/
def CacheAgrees (s : State) : Prop := lastWritten Config.board.cachePolicy s.trace = s.orient

/-! ### What claims say about answers -/

/-- The channel's next `n` answers are OK. -/
def ChanOk (s : State) (n : Nat) : Prop := ∀ k, k < n → chanAnsAt s k = .ok

/-- The reset line's next `n` answers are OK. -/
def RstOk (s : State) (n : Nat) : Prop := ∀ k, k < n → rstAnsAt s k = .ok

/-- The backlight line's next `n` answers are OK. -/
def BlOk (s : State) (n : Nat) : Prop := ∀ k, k < n → blAnsAt s k = .ok

/-- The channel's answer number `k` (0 the next one) is the first `FAIL`. -/
def FirstFail (s : State) (k : Nat) : Prop := ChanOk s k ∧ chanAnsAt s k = .fail

/-- Every pin answer `init` draws is OK (R110, R111): three of a reset line, two of a backlight line. -/
def InitPinsOk (s : State) : Prop := (s.rst.isSome = true → RstOk s 3) ∧ (s.bl.isSome = true → BlOk s 2)

/-- The first failure of `init` is a pin's, with payload `e` (R117). -/
def InitPinFails (s : State) (e : PinErr) : Prop :=
  (s.rst.isSome = true ∧ ∃ k, k < 3 ∧ RstOk s k ∧ rstAnsAt s k = .fail e) ∨
    ((s.rst.isSome = true → RstOk s 3) ∧ s.bl.isSome = true ∧ ∃ k, k < 2 ∧ BlOk s k ∧ blAnsAt s k = .fail e)

/-! ### What claims say about traces -/

/-- The events `t`'s trace has beyond `s`'s: those of the requests served between. -/
def newEvents (s t : State) : List Ev := t.trace.drop s.trace.length

/-- A burst event with the answer `FAIL`. -/
def failed : Ev → Ev
  | .cmdEv b _ => .cmdEv b .fail
  | .dataEv bs _ => .dataEv bs .fail
  | e => e

/-- The events before number `k` (0 the first) as they are, and number `k` failed: "events 1..k, the `k`-th with answer
FAIL" of R117 and R151, numbered from 0. -/
def upToFailure (evs : List Ev) (k : Nat) : List Ev := evs.take k ++ ((evs.drop k).take 1).map failed

/-- The two bytes of a 16-bit value as R42 sends them, most significant first, by arithmetic. -/
def sent16 (v : U16) : List Byte := [BitVec.ofNat 8 (v.toNat / 256), BitVec.ofNat 8 (v.toNat % 256)]

/-- An accepted command burst. -/
def okCmd (c : CommandName) : Ev := .cmdEv (Config.board.opc c) .ok

/-- An accepted data burst. -/
def okData (bs : List Byte) : Ev := .dataEv bs .ok

/-- An accepted parameter string of R74. -/
def okParam (p : ParamName) : Ev := .dataEv ((Config.board.param p).head :: (Config.board.param p).tail) .ok

/-- The six bursts of R151. -/
def windowBursts (sx sy ex ey : U16) : List Ev :=
  [okCmd .caset, okData (sent16 sx), okData (sent16 ex), okCmd .raset, okData (sent16 sy), okData (sent16 ey)]

/-- The 30 bursts of R115. -/
def initBursts : List Ev :=
  [okCmd .swreset, okCmd .slpout,
    okCmd .pgam, okParam .pgam, okCmd .ngam, okParam .ngam, okCmd .pwr1, okParam .pwr1, okCmd .pwr2, okParam .pwr2,
    okCmd .vcom, okParam .vcom, okCmd .madctl, okData [Config.board.initMadctl], okCmd .colmod,
    okData [Config.board.colmodByte],
    okCmd .ifmode, okParam .ifmode, okCmd .frmctr, okParam .frmctr, okCmd .invctr, okParam .invctr,
    okCmd .disctrl, okParam .disctrl, okCmd .etmod, okParam .etmod, okCmd .adjctl3, okParam .adjctl3,
    okCmd .slpout, okCmd .dispon]

/-- The reset pulse as the line answers it (R110): each set waits only when it succeeded, and the first failure ends the
request with its payload. -/
def pulseEvents (us : Nat) (a0 a1 a2 : PinAns) : List Ev :=
  match a0 with
  | .fail e => [.pinEv .rst .high a0, .endEv (.error (.pin e))]
  | .ok => .pinEv .rst .high .ok :: .delayEv us ::
    match a1 with
    | .fail e => [.pinEv .rst .low a1, .endEv (.error (.pin e))]
    | .ok => .pinEv .rst .low .ok :: .delayEv us ::
      match a2 with
      | .fail e => [.pinEv .rst .high a2, .endEv (.error (.pin e))]
      | .ok => [.pinEv .rst .high .ok, .delayEv us, .endEv .ok]

/-- The reset pulse of a successful `init` (R112 step 1). -/
def initPulse (rst : Option RstLine) : List Ev :=
  if rst.isSome then
    [.pinEv .rst .high .ok, .delayEv (resetPulseUs Config.board), .pinEv .rst .low .ok,
      .delayEv (resetPulseUs Config.board), .pinEv .rst .high .ok, .delayEv (resetPulseUs Config.board)]
  else []

/-- The backlight settle of a successful `init` (R112 step 2). -/
def initSettle (bl : Option BlLine) : List Ev :=
  if bl.isSome then [.pinEv .bl .low .ok, .delayEv 10000, .pinEv .bl .high .ok] else []

/-- The events of a successful `init` between its markers, steps 1 to 10 of R112 with the waits of R118. -/
def initEvents (rst : Option RstLine) (bl : Option BlLine) : List Ev :=
  initPulse rst ++ initSettle bl ++
    [okCmd .swreset, .delayEv 150000, okCmd .slpout, .delayEv 10000,
      okCmd .pgam, okParam .pgam, okCmd .ngam, okParam .ngam, okCmd .pwr1, okParam .pwr1, okCmd .pwr2, okParam .pwr2,
      okCmd .vcom, okParam .vcom, okCmd .madctl, okData [Config.board.initMadctl], okCmd .colmod,
      okData [Config.board.colmodByte],
      okCmd .ifmode, okParam .ifmode, okCmd .frmctr, okParam .frmctr, okCmd .invctr, okParam .invctr,
      okCmd .disctrl, okParam .disctrl, okCmd .etmod, okParam .etmod, okCmd .adjctl3, okParam .adjctl3,
      okCmd .slpout, .delayEv 10000, okCmd .dispon, .delayEv 10000]

/-- The reset pulse of `init` when its set number `k` (0 the first) is the first to fail (R110): the sets before it with
their waits, and no wait after it. -/
def failedPulse (e : PinErr) : Nat → List Ev
  | 0 => [.pinEv .rst .high (.fail e)]
  | 1 => [.pinEv .rst .high .ok, .delayEv (resetPulseUs Config.board), .pinEv .rst .low (.fail e)]
  | _ =>
    [.pinEv .rst .high .ok, .delayEv (resetPulseUs Config.board), .pinEv .rst .low .ok,
      .delayEv (resetPulseUs Config.board), .pinEv .rst .high (.fail e)]

/-- The backlight settle of `init` when its set number `k` is the first to fail (R111). -/
def failedSettle (e : PinErr) : Nat → List Ev
  | 0 => [.pinEv .bl .low (.fail e)]
  | _ => [.pinEv .bl .low .ok, .delayEv 10000, .pinEv .bl .high (.fail e)]

/-- A list of events up to its burst number `k` (0 the first), that one failed. -/
def upToBurst : List Ev → Nat → List Ev
  | [], _ => []
  | e :: es, k =>
    if isChanEv e then
      match k with
      | 0 => [failed e]
      | k + 1 => e :: upToBurst es k
    else e :: upToBurst es k

/-- The commands R71 says an operation sends, in its order. -/
def commandsOf : OpName → List CommandName
  | .new => []
  | .release => []
  | .orientation => []
  | .hardReset => []
  | .init =>
    [.swreset, .slpout, .pgam, .ngam, .pwr1, .pwr2, .vcom, .madctl, .colmod, .ifmode, .frmctr, .invctr, .disctrl, .etmod,
      .adjctl3, .slpout, .dispon]
  | .setOrientation => [.madctl]
  | .setAddressWindow => [.caset, .raset]
  | .setPixel => [.caset, .raset, .ramwr]
  | .setPixels => [.caset, .raset, .ramwr]
  | .writeRaw => [.ramwr]

/-! ### What claims say a request leaves alone -/

/-- `t` is `s` but for the trace, the channel's answers, `upc` and its counter: what an operation that touches the
channel alone may change (R102). -/
def OnlyChannel (s t : State) : Prop :=
  t = { s with trace := t.trace, chanIn := t.chanIn, chanFree := t.chanFree, upc := t.upc, upcFree := t.upcFree }

/-- As `OnlyChannel`, and the orientation cache. -/
def OnlyChannelAndCache (s t : State) : Prop :=
  t = { s with trace := t.trace, chanIn := t.chanIn, chanFree := t.chanFree, upc := t.upc, upcFree := t.upcFree,
               orient := t.orient }

/-- `t` is `s` but for the trace, the reset line's answers, `upc` and its counter. -/
def OnlyResetLine (s t : State) : Prop :=
  t = { s with trace := t.trace, rstIn := t.rstIn, rstFree := t.rstFree, upc := t.upc, upcFree := t.upcFree }

/-- `t` is `s` but for the trace, every answer, the cache, `upc` and its counter: what `init` may change. -/
def OnlyAccessesAndCache (s t : State) : Prop :=
  t = { s with trace := t.trace, chanIn := t.chanIn, chanFree := t.chanFree, rstIn := t.rstIn, rstFree := t.rstFree,
               blIn := t.blIn, blFree := t.blFree, upc := t.upc, upcFree := t.upcFree, orient := t.orient }

/-- `t` is `s` but for these new events, `upc` and its counter: a request without I/O. -/
def OnlyMarkers (s t : State) (evs : List Ev) : Prop :=
  t = { s with trace := s.trace ++ evs, upc := t.upc, upcFree := t.upcFree }

/-- `OPC_DISTINCT` (R8): a premise a claim takes by name, never assumed. -/
def OpcDistinct (cfg : Config) : Prop := Function.Injective cfg.opc

end Sys2Proof
end

