-- ==== Sys2Proof/Certificates/Slice0/Obligations.lean ====
section
/-! DEFINITION. The statements for the provers, each from the rules of spec/ its docstring names. -/

open Sys2Proof Sys2Proof.Machine

/-! ### Frames -/

/-- The decode vectors of 95_test_vectors.md (L2-E1 to L2-E9), each word as the spec writes it. -/
def Obligations.SpecVectorsDecode : Prop :=
  ∀ p : Ports,
    decode p [0x01, 0x00] = .ok (.new p.chan none none) ∧
    decode p [0x01, 0x03] = .ok (.new p.chan (some p.rst) (some p.bl)) ∧
    decode p [0x06, 0x01] = .ok (.setOrientation .orient60) ∧
    decode p [0x07, 0x01, 0x02, 0x03, 0x04, 0x05, 0x06, 0x07, 0x08]
      = .ok (.setAddressWindow 0x0102 0x0304 0x0506 0x0708) ∧
    decode p [0x08, 0x00, 0x01, 0x00, 0x02, 0xF8, 0x00] = .ok (.setPixel 1 2 0xF800) ∧
    decode p [0x09, 0x00, 0x0A, 0x00, 0x0A, 0x00, 0x0B, 0x00, 0x0A, 0x00, 0x00, 0x00, 0x02, 0x12, 0x34, 0xAB, 0xCD]
      = .ok (.setPixels 10 10 11 10 [0x1234, 0xABCD]) ∧
    decode p [0x09, 0, 0, 0, 0, 0, 0, 0, 0, 0, 0, 0, 0] = .ok (.setPixels 0 0 0 0 []) ∧
    decode p [0x0A, 0x00, 0x00, 0x00, 0x03, 0xFC, 0x00, 0x00] = .ok (.writeRaw [0xFC, 0x00, 0x00]) ∧
    decode p [0x0A, 0x00, 0x00, 0x00, 0x00] = .ok (.writeRaw [])

/-- R68: a well-formed typed request is the reading of its own frame, and a frame that decodes is the frame of the
request it decodes to. -/
def Obligations.TypedFormAndFrameAgree : Prop :=
  (∀ i : Instr, i.wf = true → decode (encodePorts i) (encode i) = .ok i) ∧
  (∀ (p : Ports) (f : List Byte) (i : Instr), decode p f = .ok i → i.wf = true ∧ encode i = f)

/-- R63, R64, R66, R67: the frames that spell an operation are exactly those of the selector map with the length of
their format and count and with reserved bits 0. -/
def Obligations.ExactlyTheTableFramesDecode : Prop :=
  ∀ (p : Ports) (f : List Byte),
    (∃ i, decode p f = .ok i) ↔
      (∃ flags : Byte, flags.toNat < 4 ∧ f = [0x01, flags]) ∨
      f = [0x02] ∨ f = [0x03] ∨ f = [0x04] ∨ f = [0x05] ∨
      (∃ ocode : Byte, ocode.toNat < 4 ∧ f = [0x06, ocode]) ∨
      (∃ w : List Byte, w.length = 8 ∧ f = 0x07 :: w) ∨
      (∃ w : List Byte, w.length = 6 ∧ f = 0x08 :: w) ∨
      (∃ (w cs : List Byte) (a b c d : Byte), w.length = 8 ∧
        cs.length = 2 * (a.toNat * 2 ^ 24 + b.toNat * 2 ^ 16 + c.toNat * 2 ^ 8 + d.toNat) ∧
        f = 0x09 :: (w ++ [a, b, c, d] ++ cs)) ∨
      (∃ (buf : List Byte) (a b c d : Byte),
        buf.length = a.toNat * 2 ^ 24 + b.toNat * 2 ^ 16 + c.toNat * 2 ^ 8 + d.toNat ∧
        f = 0x0A :: ([a, b, c, d] ++ buf))

/-- R66: a reserved selector, a nonzero reserved bit or a wrong length is refused as `IllegalRequest`. That this holds
whatever the state of the block is the model's choice: on a block that is not Live R207 gives `NotLive` as well, and that
the frame is looked at first, and an empty frame counts as a wrong length, is log entry 12. -/
def Obligations.IllegalFramesAreRefused : Prop :=
  ∀ (s : State) (r : Request) (rest : List Request), s.reqs = r :: rest →
    (r.frame = [] ∨ (∃ (sel : Byte) (body : List Byte), r.frame = sel :: body ∧ (sel.toNat = 0x00 ∨ 0x0B ≤ sel.toNat)) ∨
      (∃ flags : Byte, r.frame = [0x01, flags] ∧ 4 ≤ flags.toNat) ∨
      (∃ ocode : Byte, r.frame = [0x06, ocode] ∧ 4 ≤ ocode.toNat) ∨
      (∃ (sel : Byte) (body : List Byte) (op : OpName), r.frame = sel :: body ∧ opOfSel sel = some op ∧
        r.frame.length ≠ frameLength (formatOf op) r.frame)) →
    step s = .refused .illegalRequest

/-- R65: the operands of a window and the colours of a sequence are their bytes read most significant first. -/
def Obligations.OperandFieldsAreBigEndian : Prop :=
  (∀ (p : Ports) (a b c d e f g h : Byte), ∃ sx sy ex ey : U16,
    decode p [0x07, a, b, c, d, e, f, g, h] = .ok (.setAddressWindow sx sy ex ey) ∧
    sx.toNat = a.toNat * 256 + b.toNat ∧ sy.toNat = c.toNat * 256 + d.toNat ∧
    ex.toNat = e.toNat * 256 + f.toNat ∧ ey.toNat = g.toNat * 256 + h.toNat) ∧
  (∀ (p : Ports) (w n cs : List Byte) (sx sy ex ey : U16) (colors : List U16), w.length = 8 → n.length = 4 →
    decode p (0x09 :: (w ++ n ++ cs)) = .ok (.setPixels sx sy ex ey colors) →
    cs.length = 2 * colors.length ∧
    ∀ i, i < colors.length → ∃ hi lo : Byte,
      cs[2 * i]? = some hi ∧ cs[2 * i + 1]? = some lo ∧
      (colors[i]?).map BitVec.toNat = some (hi.toNat * 256 + lo.toNat))

/-! ### The step -/

/-- R4, R217: the next request is decoded and its instruction run to completion, on the state without that request. -/
def Obligations.StepRunsTheNextRequest : Prop :=
  ∀ (s : State) (r : Request) (rest : List Request) (i : Instr),
    s.reqs = r :: rest → decode r.ports r.frame = .ok i → step s = exec i { s with reqs := rest }

/-- R208, R216: without a request nothing happens. -/
def Obligations.IdleBlockDoesNothing : Prop :=
  ∀ s : State, s.reqs = [] → step s = .next s

/-- The host's table words: a word that decodes runs as the very next request (log entry 15). -/
def Obligations.TableWordRunsNext : Prop :=
  ∀ (s : State) (nbits w : Nat) (i : Instr), decodeTableWord nbits w = some i → step (s.withFetchWord nbits w) = exec i s

/-! ### Lifecycle -/

/-- R100: `new` constructs the state, with no event but its markers, unless the block is Live. -/
def Obligations.NewConstructsTheDriver : Prop :=
  ∀ (s : State) (c : Chan) (r : Option RstLine) (b : Option BlLine),
    encode (.new c r b) = [0x01, BitVec.ofNat 8 ((if r.isSome then 1 else 0) + (if b.isSome then 2 else 0))] ∧
    (s.life ≠ .live → ∃ t, exec (.new c r b) s = .next t ∧
      t = { s with life := .live, chan := c, rst := r, bl := b, orient := .orient00,
                   trace := s.trace ++ [.beginEv .new, .endEv .ok], upc := t.upc, upcFree := t.upcFree }) ∧
    (s.life = .live → exec (.new c r b) s = .refused .resourceOwned)

/-- R101: `release` hands the handles back, ends the life and does no I/O; after it every request but `new` is refused. -/
def Obligations.ReleaseHandsBackTheHandles : Prop :=
  ∀ s : State,
    encode .release = [0x02] ∧
    (s.life = .live → ∃ t, exec .release s = .next t ∧
      t = { s with life := .released, upc := t.upc, upcFree := t.upcFree,
                   trace := s.trace ++ [.beginEv .release, .endEv (.okHandles s.chan s.rst s.bl)] } ∧
      (∀ line, lineLevel line t.trace = lineLevel line s.trace) ∧
      ∀ j, (∀ c r b, j ≠ .new c r b) → exec j t = .refused .notLive) ∧
    (s.life ≠ .live → exec .release s = .refused .notLive)

/-- R21: Absent at first; `new` makes it Live and is refused while Live; `release` makes it Released; every other request
leaves it; every request but `new` is refused unless Live. -/
def Obligations.LifecycleLaw : Prop :=
  State.absent.life = .absent ∧
  ∀ (i : Instr) (s : State),
    ((∃ c r b, i = .new c r b) → s.life = .live → exec i s = .refused .resourceOwned) ∧
    ((∀ c r b, i ≠ .new c r b) → s.life ≠ .live → exec i s = .refused .notLive) ∧
    ∀ t, exec i s = .next t →
      ((∃ c r b, i = .new c r b) → t.life = .live) ∧
      (i = .release → t.life = .released) ∧
      ((∀ c r b, i ≠ .new c r b) → i ≠ .release → t.life = s.life)

/-- R210: every operation but `new` may be requested whenever the block is Live, and is served to a next state. -/
def Obligations.EveryOperationIsServedWhileLive : Prop :=
  ∀ (i : Instr) (s : State), s.life = .live → (∀ c r b, i ≠ .new c r b) → ∃ t, exec i s = .next t

/-- R37, R230: the reset state is what `new` leaves of the Absent block. The handles, `upc` and the inputs are the model's
choice (log entries 1, 3, 4, 5, 16). -/
def Obligations.ResetIsTheStateAfterNew : Prop :=
  exec (.new .first none none) State.absent = .next { State.reset with upc := Config.freeUpc 0, upcFree := 1 }

/-- R102: within a lifetime the handles are constant, only `release` ends it, only `SETORIENT` (in `set_orientation` and
`init`) writes the cache, and nothing reads `upc`. -/
def Obligations.LifetimeFieldsAreConstant : Prop :=
  ∀ (i : Instr) (s : State), s.life = .live →
    (∀ t, exec i s = .next t →
      t.chan = s.chan ∧ t.rst = s.rst ∧ t.bl = s.bl ∧
      (t.life = s.life ∨ i = .release) ∧
      (t.orient = s.orient ∨ (∃ o, i = .setOrientation o ∧ t.orient = o) ∨ (i = .init ∧ t.orient = .orient00))) ∧
    ∀ n : Nat, exec i { s with upc := n } = exec i s

/-- R22: after any requests that do not end the lifetime, `release` answers exactly the handles `new` was given. -/
def Obligations.ReleaseReturnsWhatNewWasGiven : Prop :=
  ∀ (s t u : State) (c : Chan) (r : Option RstLine) (b : Option BlLine) (is : List Instr),
    exec (.new c r b) s = .next t → execAll is t = .next u → Instr.release ∉ is →
    u.chan = c ∧ u.rst = r ∧ u.bl = b ∧
    ∃ v, exec .release u = .next v ∧ v.trace = u.trace ++ [.beginEv .release, .endEv (.okHandles c r b)]

/-! ### tft_init_sequencer -/

/-- R110: the reset pulse, each set waiting the pulse time only when it succeeded and the first failure ending the
request; nothing without a reset line; refused unless Live. -/
def Obligations.HardResetPulsesTheLine : Prop :=
  ∀ s : State,
    encode .hardReset = [0x03] ∧ 100 ≤ resetPulseUs Config.board ∧
    (s.life ≠ .live → exec .hardReset s = .refused .notLive) ∧
    (s.life = .live → s.rst = none → ∃ t, exec .hardReset s = .next t ∧
      OnlyMarkers s t [.beginEv .hardReset, .endEv .ok]) ∧
    (s.life = .live → s.rst ≠ none → ∃ t, exec .hardReset s = .next t ∧ OnlyResetLine s t ∧
      t.trace = s.trace ++
        .beginEv .hardReset :: pulseEvents (resetPulseUs Config.board) (rstAnsAt s 0) (rstAnsAt s 1) (rstAnsAt s 2))

/-- R110, R23: the level the reset line is left at: high after a successful pulse, its earlier level after a failure of
the first set, high after one of the second, low after one of the third. Levels are read off the whole trace (log entry
24). -/
def Obligations.HardResetLineLevels : Prop :=
  ∀ s : State, s.life = .live → s.rst ≠ none →
    ∃ t, exec .hardReset s = .next t ∧ lineLevel .bl t.trace = lineLevel .bl s.trace ∧
      (RstOk s 3 → lineLevel .rst t.trace = some .high ∧ resultsOf (newEvents s t) = [.ok]) ∧
      (∀ e, rstAnsAt s 0 = .fail e → lineLevel .rst t.trace = lineLevel .rst s.trace ∧
        resultsOf (newEvents s t) = [.error (.pin e)]) ∧
      (∀ e, RstOk s 1 → rstAnsAt s 1 = .fail e → lineLevel .rst t.trace = some .high ∧
        resultsOf (newEvents s t) = [.error (.pin e)]) ∧
      (∀ e, RstOk s 2 → rstAnsAt s 2 = .fail e → lineLevel .rst t.trace = some .low ∧
        resultsOf (newEvents s t) = [.error (.pin e)])

/-- R111, R112, R118: with every answer OK, `init` emits steps 1 to 10 with their waits, in order, and answers `Ok`; the
cache is the default under `SetDefault` and as it was under `Keep`. -/
def Obligations.InitRunsItsProgram : Prop :=
  ∀ s : State, s.life = .live → InitPinsOk s → ChanOk s 30 →
    ∃ t, exec .init s = .next t ∧ OnlyAccessesAndCache s t ∧
      t.trace = s.trace ++ .beginEv .init :: initEvents s.rst s.bl ++ [.endEv .ok] ∧
      t.orient = (match Config.board.cachePolicy with | .setDefault => .orient00 | .keep => s.orient)

/-- R115: the channel projection of a successful `init` is its 30 bursts, 17 commands and 13 data bursts, whatever lines
are present, and this many bytes, 66 for the strings of DEFAULT_CFG. -/
def Obligations.InitChannelProjection : Prop :=
  ∀ s : State, s.life = .live → InitPinsOk s → ChanOk s 30 →
    ∃ t, exec .init s = .next t ∧ chanEvents (newEvents s t) = initBursts ∧ initBursts.length = 30 ∧
      (initBursts.filterMap evCommand).length = 17 ∧
      (channelBytes (newEvents s t)).length =
        17 + (([.pgam, .ngam, .pwr1, .pwr2, .vcom].map fun p => (paramBytes (Config.board.param p)).length).sum + 2 +
          ([.ifmode, .frmctr, .invctr, .disctrl, .etmod, .adjctl3].map fun p =>
            (paramBytes (Config.board.param p)).length).sum) ∧
      17 + (([.pgam, .ngam, .pwr1, .pwr2, .vcom].map fun p => (paramBytes (defaultCfg.param p)).length).sum + 2 +
        ([.ifmode, .frmctr, .invctr, .disctrl, .etmod, .adjctl3].map fun p =>
          (paramBytes (defaultCfg.param p)).length).sum) = 66

/-- R116: the pin events, delay events, requested delay total and micro-program length of a successful `init`. -/
def Obligations.InitEventCounts : Prop :=
  ∀ s : State, s.life = .live → InitPinsOk s → ChanOk s 30 →
    ∃ t, exec .init s = .next t ∧
      ((newEvents s t).filter isPinEv).length = (if s.rst.isSome then 3 else 0) + (if s.bl.isSome then 2 else 0) ∧
      (delaysOf (newEvents s t)).length = (if s.rst.isSome then 3 else 0) + (if s.bl.isSome then 1 else 0) + 4 ∧
      (delaysOf (newEvents s t)).sum =
        180000 + (if s.rst.isSome then 3 * resetPulseUs Config.board else 0) + (if s.bl.isSome then 10000 else 0) ∧
      (initProgram Config.board s.rst s.bl).length =
        30 + 4 + (if s.rst.isSome then 6 else 0) + (if s.bl.isSome then 3 else 0) +
          (match Config.board.cachePolicy with | .setDefault => 1 | .keep => 0) ∧
      (initProgram Config.board s.rst s.bl).length ≤ 44

/-- R117: where the first failing burst of `init` is number `k` (0 the first), its events are those of the successful one
up to that burst, so the channel sees the bursts up to it, the delays before it have run and none after it, and the cache
was written only if burst 13 had been accepted. Where the first failure is a pin's (R110, R111, R114), its events are the
sets and waits before it and its own, and the channel sees nothing. -/
def Obligations.InitFailurePosition : Prop :=
  ∀ s : State, s.life = .live →
    (∀ k, k < 30 → InitPinsOk s → FirstFail s k →
      ∃ t, exec .init s = .next t ∧ OnlyAccessesAndCache s t ∧
        t.trace = s.trace ++ .beginEv .init :: upToBurst (initEvents s.rst s.bl) k ++ [.endEv (.error .transport)] ∧
        chanEvents (newEvents s t) = upToFailure initBursts k ∧
        resultsOf (newEvents s t) = [.error .transport] ∧
        delaysOf (newEvents s t) =
          delaysOf (initPulse s.rst ++ initSettle s.bl) ++
            ((if 0 < k then [150000] else []) ++ (if 1 < k then [10000] else []) ++ (if 28 < k then [10000] else [])) ∧
        t.orient = (if Config.board.cachePolicy = .setDefault ∧ 14 ≤ k then .orient00 else s.orient)) ∧
    (∀ k e, k < 3 → s.rst.isSome = true → RstOk s k → rstAnsAt s k = .fail e →
      ∃ t, exec .init s = .next t ∧ OnlyAccessesAndCache s t ∧ t.orient = s.orient ∧
        t.trace = s.trace ++ .beginEv .init :: failedPulse e k ++ [.endEv (.error (.pin e))]) ∧
    (∀ k e, k < 2 → (s.rst.isSome = true → RstOk s 3) → s.bl.isSome = true → BlOk s k → blAnsAt s k = .fail e →
      ∃ t, exec .init s = .next t ∧ OnlyAccessesAndCache s t ∧ t.orient = s.orient ∧
        t.trace = s.trace ++ .beginEv .init :: initPulse s.rst ++ failedSettle e k ++ [.endEv (.error (.pin e))]) ∧
    (∀ e, InitPinFails s e →
      ∃ t, exec .init s = .next t ∧ chanEvents (newEvents s t) = [] ∧
        resultsOf (newEvents s t) = [.error (.pin e)] ∧ t.orient = s.orient)

/-- R113: under `Keep`, `init` never writes the cache; under `SetDefault` it writes the default exactly when its pins and
its first 14 bursts were accepted. -/
def Obligations.InitCachePolicy : Prop :=
  ∀ s : State, s.life = .live → ∃ t, exec .init s = .next t ∧
    (match Config.board.cachePolicy with
      | .keep => t.orient = s.orient
      | .setDefault => (InitPinsOk s ∧ ChanOk s 14 → t.orient = .orient00) ∧
          (¬ (InitPinsOk s ∧ ChanOk s 14) → t.orient = s.orient))

/-- R111: after a successful `init` every line present is high; the level of an absent one is as it was, read off the whole
trace (log entry 24). -/
def Obligations.InitLeavesTheLinesHigh : Prop :=
  ∀ s : State, s.life = .live → InitPinsOk s → ChanOk s 30 →
    ∃ t, exec .init s = .next t ∧
      lineLevel .rst t.trace = (if s.rst.isSome then some .high else lineLevel .rst s.trace) ∧
      lineLevel .bl t.trace = (if s.bl.isSome then some .high else lineLevel .bl s.trace)

/-- R140: `orientation` answers the cache in the two bytes of R62, with no I/O. -/
def Obligations.OrientationReadsTheCache : Prop :=
  ∀ s : State,
    encode .orientation = [0x05] ∧
    (s.life = .live → ∃ t, exec .orientation s = .next t ∧
      OnlyMarkers s t [.beginEv .orientation, .endEv (.okOrientation s.orient)] ∧
      (responsesOf (newEvents s t)).map Response.bytes = [[0x00, (orientCode s.orient).setWidth 8]]) ∧
    (s.life ≠ .live → exec .orientation s = .refused .notLive)

/-- R142: `set_orientation` in its three cases, the reported result, and what a following `orientation` answers. -/
def Obligations.SetOrientationLaw : Prop :=
  ∀ (s : State) (o : Orientation), s.life = .live → ∃ t u,
    exec (.setOrientation o) s = .next t ∧ exec .orientation t = .next u ∧
    (ChanOk s 2 →
      chanEvents (newEvents s t) = [okCmd .madctl, okData [pat o]] ∧ resultsOf (newEvents s t) = [.ok] ∧
      resultsOf (newEvents t u) = [.okOrientation o]) ∧
    (chanAnsAt s 0 = .fail →
      chanEvents (newEvents s t) = [failed (okCmd .madctl)] ∧ resultsOf (newEvents s t) = [.error .transport] ∧
      resultsOf (newEvents t u) = [.okOrientation s.orient]) ∧
    (FirstFail s 1 →
      chanEvents (newEvents s t) = [okCmd .madctl, failed (okData [pat o])] ∧
      resultsOf (newEvents s t) = [.error .transport] ∧ resultsOf (newEvents t u) = [.okOrientation s.orient])

/-- R24, R69: the four patterns, their codes in the frame, and that no two variants share either. -/
def Obligations.OrientationPatterns : Prop :=
  [pat .orient00, pat .orient60, pat .orientC0, pat .orientA0] = [0x00, 0x60, 0xC0, 0xA0] ∧
  [Orientation.orient00, .orient60, .orientC0, .orientA0].map (fun o => encode (.setOrientation o))
    = [[0x06, 0x00], [0x06, 0x01], [0x06, 0x02], [0x06, 0x03]] ∧
  ∀ o o' : Orientation, pat o = pat o' → o = o'

/-- R25, R113: at reset the cache is the orientation the trace says was last written (log entries 8 and 18). -/
def Obligations.CacheAgreesAtReset : Prop := CacheAgrees State.reset

/-- R25, R113: every step keeps the cache equal to the orientation the trace says was last successfully written, read
off the trace alone. Under `Keep` the write of `init` is not counted (C4): the model's reading, log entry 8. -/
def Obligations.CacheAgreesIsKept : Prop :=
  ∀ s t : State, CacheAgrees s → step s = .next t → CacheAgrees t

/-! ### address_window_encoder and pixel_stream_mux -/

/-- R150, R151: the six bursts of a window and its ten bytes, whatever the bounds; a first failure ends them; refused
unless Live. -/
def Obligations.WindowEmissionLaw : Prop :=
  ∀ (s : State) (sx sy ex ey : U16),
    encode (.setAddressWindow sx sy ex ey) = 0x07 :: (sent16 sx ++ sent16 sy ++ sent16 ex ++ sent16 ey) ∧
    (windowBursts sx sy ex ey).length = 6 ∧ (channelBytes (windowBursts sx sy ex ey)).length = 10 ∧
    (s.life ≠ .live → exec (.setAddressWindow sx sy ex ey) s = .refused .notLive) ∧
    (s.life = .live → ChanOk s 6 → ∃ t, exec (.setAddressWindow sx sy ex ey) s = .next t ∧ OnlyChannel s t ∧
      t.trace = s.trace ++ .beginEv .setAddressWindow :: windowBursts sx sy ex ey ++ [.endEv .ok]) ∧
    (∀ k, k < 6 → s.life = .live → FirstFail s k → ∃ t, exec (.setAddressWindow sx sy ex ey) s = .next t ∧ OnlyChannel s t ∧
      t.trace = s.trace ++ .beginEv .setAddressWindow :: upToFailure (windowBursts sx sy ex ey) k
        ++ [.endEv (.error .transport)])

/-- R160: a pixel is its window, the memory-write command and its colour in two bytes. -/
def Obligations.SetPixelEmission : Prop :=
  ∀ (s : State) (x y color : U16),
    encode (.setPixel x y color) = 0x08 :: (sent16 x ++ sent16 y ++ sent16 color) ∧
    (s.life ≠ .live → exec (.setPixel x y color) s = .refused .notLive) ∧
    (s.life = .live → ChanOk s 8 → ∃ t, exec (.setPixel x y color) s = .next t ∧ OnlyChannel s t ∧
      t.trace = s.trace ++ .beginEv .setPixel :: windowBursts x y x y ++ [okCmd .ramwr, okData (sent16 color), .endEv .ok]) ∧
    (∀ k, k < 8 → s.life = .live → FirstFail s k → ∃ t, exec (.setPixel x y color) s = .next t ∧ OnlyChannel s t ∧
      t.trace = s.trace ++
        .beginEv .setPixel :: upToFailure (windowBursts x y x y ++ [okCmd .ramwr, okData (sent16 color)]) k
        ++ [.endEv (.error .transport)])

/-- R161: a rectangle of colours is its window, the memory-write command and all the colours in one burst, however many. -/
def Obligations.SetPixelsEmission : Prop :=
  ∀ (s : State) (sx sy ex ey : U16) (colors : List U16),
    encode (.setPixels sx sy ex ey colors) =
      0x09 :: (sent16 sx ++ sent16 sy ++ sent16 ex ++ sent16 ey ++ be32 colors.length ++ colors.flatMap sent16) ∧
    (s.life ≠ .live → exec (.setPixels sx sy ex ey colors) s = .refused .notLive) ∧
    (s.life = .live → ChanOk s 8 → ∃ t, exec (.setPixels sx sy ex ey colors) s = .next t ∧ OnlyChannel s t ∧
      t.trace = s.trace ++ .beginEv .setPixels :: windowBursts sx sy ex ey
        ++ [okCmd .ramwr, okData (colors.flatMap sent16), .endEv .ok]) ∧
    (∀ k, k < 8 → s.life = .live → FirstFail s k → ∃ t, exec (.setPixels sx sy ex ey colors) s = .next t ∧
      OnlyChannel s t ∧
      t.trace = s.trace ++ .beginEv .setPixels ::
        upToFailure (windowBursts sx sy ex ey ++ [okCmd .ramwr, okData (colors.flatMap sent16)]) k
        ++ [.endEv (.error .transport)])

/-- R162: the raw path is the memory-write command and the buffer verbatim, of any length, with no window. -/
def Obligations.WriteRawEmission : Prop :=
  ∀ (s : State) (buf : List Byte),
    encode (.writeRaw buf) = 0x0A :: (be32 buf.length ++ buf) ∧
    (s.life ≠ .live → exec (.writeRaw buf) s = .refused .notLive) ∧
    (s.life = .live → ChanOk s 2 → ∃ t, exec (.writeRaw buf) s = .next t ∧ OnlyChannel s t ∧
      t.trace = s.trace ++ [.beginEv .writeRaw, okCmd .ramwr, okData buf, .endEv .ok]) ∧
    (∀ k, k < 2 → s.life = .live → FirstFail s k → ∃ t, exec (.writeRaw buf) s = .next t ∧ OnlyChannel s t ∧
      t.trace = s.trace ++ .beginEv .writeRaw :: upToFailure [okCmd .ramwr, okData buf] k
        ++ [.endEv (.error .transport)])

/-- R164: `set_pixel` emits what `set_address_window` emits and then a memory-write of its colour, and, whatever the
answers, what `set_pixels` of that one colour emits; the event and byte counts of the three pixel operations. -/
def Obligations.TypedEmissionLaw : Prop :=
  (∀ (s : State) (x y c : U16), s.life = .live → ∃ t u,
    exec (.setPixel x y c) s = .next t ∧ exec (.setPixels x y x y [c]) s = .next u ∧
    chanEvents (newEvents s t) = chanEvents (newEvents s u)) ∧
  (∀ (s : State) (x y c : U16), s.life = .live → ChanOk s 8 → ∃ t w,
    exec (.setPixel x y c) s = .next t ∧ exec (.setAddressWindow x y x y) s = .next w ∧
    chanEvents (newEvents s t) = chanEvents (newEvents s w) ++ [okCmd .ramwr, okData (sent16 c)] ∧
    (chanEvents (newEvents s t)).length = 8 ∧ (channelBytes (newEvents s t)).length = 13) ∧
  (∀ (s : State) (sx sy ex ey : U16) (colors : List U16), s.life = .live → ChanOk s 8 → ∃ t,
    exec (.setPixels sx sy ex ey colors) s = .next t ∧
    (chanEvents (newEvents s t)).length = 8 ∧ (channelBytes (newEvents s t)).length = 11 + 2 * colors.length) ∧
  (∀ (s : State) (buf : List Byte), s.life = .live → ChanOk s 2 → ∃ t,
    exec (.writeRaw buf) s = .next t ∧
    (chanEvents (newEvents s t)).length = 2 ∧ (channelBytes (newEvents s t)).length = 1 + buf.length)

/-- R152: every well-formed window has the pixel count of its formula in naturals, which runs from 1 to 2^32, more than a
16-bit or 32-bit count could hold. -/
def Obligations.PixelCountIsUnbounded : Prop :=
  (∀ sx sy ex ey : U16, sx.toNat ≤ ex.toNat → sy.toNat ≤ ey.toNat →
    pixelCount sx sy ex ey = some ((ex.toNat - sx.toNat + 1) * (ey.toNat - sy.toNat + 1)) ∧
    1 ≤ (ex.toNat - sx.toNat + 1) * (ey.toNat - sy.toNat + 1) ∧
    (ex.toNat - sx.toNat + 1) * (ey.toNat - sy.toNat + 1) ≤ 2 ^ 32) ∧
  (∀ (sx sy ex ey : U16) (n : Nat), pixelCount sx sy ex ey = some n →
    1 ≤ n ∧ n ≤ 2 ^ 32 ∧ n = (ex.toNat - sx.toNat + 1) * (ey.toNat - sy.toNat + 1)) ∧
  (∀ x y : U16, pixelCount x y x y = some 1) ∧
  pixelCount 0 0 0xFFFF 0xFFFF = some (2 ^ 32)

/-! ### Errors, order and the trace -/

/-- R201, R202: a served request ends with exactly one result, the last event, of the form its operation has, and an error
only its operation can have. -/
def Obligations.OneAllowedResult : Prop :=
  ∀ (i : Instr) (s t : State), exec i s = .next t → ∃ evs r,
    t.trace = s.trace ++ evs ++ [.endEv r] ∧ resultsOf evs = [] ∧
    resultAllowed t.rst.isSome t.bl.isSome (opNameOf i) r = true

/-- R200: the failing access is the last event before the error: a burst for `Transport`, a pin with the same payload for
`Pin(e)`. -/
def Obligations.ErrorNamesTheFailingAccess : Prop :=
  ∀ (i : Instr) (s t : State), exec i s = .next t →
    (resultsOf (newEvents s t) = [.error .transport] → ∃ evs ev,
      newEvents s t = evs ++ [ev, .endEv (.error .transport)] ∧
      ((∃ b, ev = .cmdEv b .fail) ∨ (∃ bs, ev = .dataEv bs .fail))) ∧
    (∀ e, resultsOf (newEvents s t) = [.error (.pin e)] → ∃ evs line lv,
      newEvents s t = evs ++ [.pinEv line lv (.fail e), .endEv (.error (.pin e))])

/-- R203, R29: a micro-program that raises has run exactly the primitives before the failing one, and `upc` counts them. -/
def Obligations.AbortIsPrecise : Prop :=
  ∀ (prog : List Prim) (s t : State) (e : Err), s.upc = 0 → runPrims prog s = (t, some e) →
    ∃ pre p post u, prog = pre ++ p :: post ∧ runPrims pre s = (u, none) ∧ stepPrim p u = (t, some e) ∧
      t.upc = pre.length

/-- R30: `Exec` is the loop over `prog[S.upc]`, read literally. -/
def Obligations.ExecutorIsTheIndexedLoop : Prop :=
  ∀ (prog : List Prim) (s : State) (fuel : Nat), s.upc = 0 → prog.length ≤ fuel →
    execLoop fuel prog s = runPrims prog s

/-- R44 to R47, R31: what each primitive appends and raises. -/
def Obligations.PrimitivesAppendAndRaise : Prop :=
  ∀ s : State,
    (∀ b, (stepPrim (.cmd b) s).1.trace = s.trace ++ [.cmdEv b (chanAnsAt s 0)] ∧
      (stepPrim (.cmd b) s).2 = (if chanAnsAt s 0 = .fail then some .transport else none)) ∧
    (∀ bs, (stepPrim (.data bs) s).1.trace = s.trace ++ [.dataEv bs (chanAnsAt s 0)] ∧
      (stepPrim (.data bs) s).2 = (if chanAnsAt s 0 = .fail then some .transport else none)) ∧
    (∀ lv, (stepPrim (.pin .rst lv) s).1.trace = s.trace ++ [.pinEv .rst lv (rstAnsAt s 0)] ∧
      (stepPrim (.pin .rst lv) s).2 = (match rstAnsAt s 0 with | .ok => none | .fail e => some (.pin e))) ∧
    (∀ lv, (stepPrim (.pin .bl lv) s).1.trace = s.trace ++ [.pinEv .bl lv (blAnsAt s 0)] ∧
      (stepPrim (.pin .bl lv) s).2 = (match blAnsAt s 0 with | .ok => none | .fail e => some (.pin e))) ∧
    (∀ us, stepPrim (.delay us) s = ({ s with trace := s.trace ++ [.delayEv us] }, none)) ∧
    (∀ o, stepPrim (.setOrient o) s = ({ s with orient := o }, none))

/-- R50, R201 to R204, R235: the trace after reset is one of whole requests, each stopped by its first failure. That it
holds the markers of `new` is read from R28, R37 and R100 (log entry 18). -/
def Obligations.LegalTraceAtReset : Prop := LegalTrace State.reset.trace

/-- R50, R201 to R204, R235: every step keeps the trace one of whole requests, each with its data bursts right behind an
accepted burst, stopped by its first failure with that error, and driving only what its operation may. -/
def Obligations.LegalTraceIsKept : Prop :=
  ∀ s t : State, LegalTrace s.trace → step s = .next t → LegalTrace t.trace

/-- R28: the trace only grows. -/
def Obligations.TraceOnlyGrows : Prop :=
  ∀ s t : State, step s = .next t → s.trace <+: t.trace

/-- R205, D13: after an error every request is served as ever, and the block keeps nothing of the error but its event. -/
def Obligations.ErrorsAreNotSticky : Prop :=
  ∀ (i j : Instr) (s t : State) (e : Err), exec i s = .next t → resultsOf (newEvents s t) = [.error e] →
    (∀ c r b, j ≠ .new c r b) →
    t.life = .live ∧ t.chan = s.chan ∧ t.rst = s.rst ∧ t.bl = s.bl ∧ t.refusals = s.refusals ∧
    ∃ u, exec j t = .next u

/-- R207: a refused request leaves its mark and changes nothing else, and marks stay for the whole run. -/
def Obligations.RefusalsLeaveTheirMark : Prop :=
  (∀ (s : State) (r : Refusal), step s = .refused r →
    serve s = { s with reqs := s.reqs.tail, refusals := s.refusals ++ [r] }) ∧
  (∀ (n : Nat) (s : State), s.refusals <+: (serveAll n s).refusals)

/-- R71: the commands an operation sends are the first of its list, all of them when it succeeds; an operation whose list
is empty does not touch the channel; the six commands R71 says are never sent are in no list. -/
def Obligations.CommandsPerOperation : Prop :=
  (∀ op c, c ∈ commandsOf op → c ∉ [CommandName.nop, .slpin, .invoff, .invon, .dispoff, .ramrd]) ∧
  ∀ (i : Instr) (s t : State), exec i s = .next t →
    (commandsOf (opNameOf i) = [] → chanEvents (newEvents s t) = []) ∧
    (newEvents s t).filterMap evCommand <+: (commandsOf (opNameOf i)).map Config.board.opc ∧
    ((∀ e, resultsOf (newEvents s t) ≠ [.error e]) →
      (newEvents s t).filterMap evCommand = (commandsOf (opNameOf i)).map Config.board.opc)

/-! ### Frames of the state -/

/-- R102: an operation on the channel alone leaves everything but the trace, the channel's answers and `upc`, whatever
the answers. -/
def Obligations.ChannelOperationsFrame : Prop :=
  ∀ s t : State,
    (∀ sx sy ex ey, exec (.setAddressWindow sx sy ex ey) s = .next t → OnlyChannel s t) ∧
    (∀ x y c, exec (.setPixel x y c) s = .next t → OnlyChannel s t) ∧
    (∀ sx sy ex ey cs, exec (.setPixels sx sy ex ey cs) s = .next t → OnlyChannel s t) ∧
    (∀ buf, exec (.writeRaw buf) s = .next t → OnlyChannel s t) ∧
    (∀ o, exec (.setOrientation o) s = .next t → OnlyChannelAndCache s t)

/-- R102: `hard_reset` changes the trace, the reset line's answers and `upc`; `init` those of every access and the cache;
`orientation` and `release` the trace and `upc`, `release` also the life. -/
def Obligations.SequencerAndLifecycleFrame : Prop :=
  ∀ s t : State,
    (exec .hardReset s = .next t → OnlyResetLine s t) ∧
    (exec .init s = .next t → OnlyAccessesAndCache s t) ∧
    (exec .orientation s = .next t → t = { s with trace := t.trace, upc := t.upc, upcFree := t.upcFree }) ∧
    (exec .release s = .next t →
      t = { s with trace := t.trace, upc := t.upc, upcFree := t.upcFree, life := .released })

/-- R30 (guards look at the lines alone), R101, R140, R141 (no short cut): no operation but `orientation` shows the cached
orientation: from states that differ in it alone, the same request leaves the same trace. The two runs meet the same
answers, since equal inputs give equal answers in the model (log entry 4). -/
def Obligations.CacheIsSeenByOrientationOnly : Prop :=
  ∀ (i : Instr) (s t u : State) (o : Orientation), i ≠ .orientation →
    exec i s = .next t → exec i { s with orient := o } = .next u → u.trace = t.trace

/-! ### The host and the controller -/

/-- R62: the response of each result. -/
def Obligations.ResponseFrames : Prop :=
  responseOf .ok = ⟨[0x00], none, none⟩ ∧
  (∀ o, responseOf (.okOrientation o) = ⟨[0x00, (orientCode o).setWidth 8], none, none⟩) ∧
  (∀ c r b, responseOf (.okHandles c r b) = ⟨[0x00], none, some (c, r, b)⟩) ∧
  responseOf (.error .transport) = ⟨[0x01], none, none⟩ ∧
  (∀ e, responseOf (.error (.pin e)) = ⟨[0x02], some e, none⟩)

/-- R48: a failed command may or may not have arrived, a failed data burst any beginning of its bytes, an accepted burst
the whole of it, and over a trace every choice of these, burst by burst. -/
def Obligations.FailedBurstsDeliverAnyBeginning : Prop :=
  (∀ (b : Byte) (w : List WireByte), w ∈ deliveries [.cmdEv b .fail] ↔ w = [] ∨ w = [.cmd b]) ∧
  (∀ (bs : List Byte) (w : List WireByte),
    w ∈ deliveries [.dataEv bs .fail] ↔ ∃ pre, pre <+: bs ∧ w = pre.map .data) ∧
  (∀ (b : Byte) (w : List WireByte), w ∈ deliveries [.cmdEv b .ok] ↔ w = [.cmd b]) ∧
  (∀ (bs : List Byte) (w : List WireByte), w ∈ deliveries [.dataEv bs .ok] ↔ w = bs.map .data) ∧
  (∀ (T U : List Ev) (w : List WireByte),
    w ∈ deliveries (T ++ U) ↔ ∃ a b, a ∈ deliveries T ∧ b ∈ deliveries U ∧ w = a ++ b)

/-- R35: the command context is the last command's byte, its failure counting as well. -/
def Obligations.ContextIsTheLastCommand : Prop :=
  ctx [] = none ∧
  (∀ (T U : List Ev) (b : Byte) (a : ChanAns), U.filterMap evCommand = [] → ctx (T ++ .cmdEv b a :: U) = some b) ∧
  (∀ T : List Ev, ctx T = none ↔ ∀ b a, Ev.cmdEv b a ∉ T)

/-- R76: the pseudo-instructions expand to their two requests, and the assembler expands them so (the braces of R75 are
characters 0x7B and 0x7D). -/
def Obligations.PseudoInstructionsExpand : Prop :=
  (∀ p, assembleLine p "power_up" = some [.hardReset, .init]) ∧
  (∀ p, assembleChars p ("blit 0, 0, 479, 0x13F, ".toList ++ [Char.ofNat 0x7B] ++ "0xFC,0".toList ++ [Char.ofNat 0x7D])
    = some [.setAddressWindow 0 0 479 319, .writeRaw [0xFC, 0]]) ∧
  (∀ sx sy ex ey buf, expand (.blit sx sy ex ey buf) = [.setAddressWindow sx sy ex ey, .writeRaw buf])

/-- R75: a number outside 0..65535 is no coordinate or colour and one outside 0..255 no raw byte; inside, it is its own
value. -/
def Obligations.AssemblerOperandRanges : Prop :=
  ∀ (w : List Char) (n : Nat), numberOf w = some n →
    (u16Of w = none ↔ 65535 < n) ∧ (∀ v, u16Of w = some v → v.toNat = n) ∧
    (byteOf w = none ↔ 255 < n) ∧ (∀ v, byteOf w = some v → v.toNat = n)

/-- R75, R64: a program's lines assemble to frames that decode, in order, to the requests the lines spell. A count no frame
can spell is an assembly error: the model's choice, log entry 25. -/
def Obligations.AssembledLinesDecode : Prop :=
  ∀ (p : Ports) (lines : List String) (rs : List Request), assemble p lines = some rs →
    ∃ iss : List (List Instr), lines.map (assembleLine p) = iss.map some ∧
      rs.map (fun r => decode r.ports r.frame) = iss.flatten.map .ok
end

