-- ==== Sys2Proof/Laws/Assembler.lean ====
section
/-! SUPPORT. What assembling a line and a program can answer (R75). -/

namespace Sys2Proof.Machine

/-- A line assembles exactly when it reads and every request of it has a frame. -/
theorem assembleRequests_eq_some {p : Ports} {l : String} {rs : List Request} :
    assembleRequests p l = some rs ↔
      ∃ is, assembleLine p l = some is ∧ (∀ i ∈ is, i.wf = true) ∧ rs = is.map requestOf := by
  unfold assembleRequests
  cases assembleLine p l with
  | none => simp
  | some is =>
    by_cases h : is.all Instr.wf = true
    · simp only [h, if_true]
      constructor
      · intro e
        cases e
        exact ⟨is, rfl, List.all_eq_true.1 h, rfl⟩
      · rintro ⟨_, e, -, rfl⟩
        cases e
        rfl
    · simp only [h, Bool.false_eq_true, if_false, reduceCtorEq, false_iff]
      rintro ⟨_, e, hw, -⟩
      cases e
      exact h (List.all_eq_true.2 hw)

/-- A program assembles exactly when its lines do, and its requests are theirs in order. -/
theorem assemble_cons_eq_some {p : Ports} {l : String} {ls : List String} {rs : List Request} :
    assemble p (l :: ls) = some rs ↔
      ∃ as bs, assembleRequests p l = some as ∧ assemble p ls = some bs ∧ rs = as ++ bs := by
  rw [assemble]
  cases assembleRequests p l <;> cases assemble p ls <;> simp [eq_comm]

end Sys2Proof.Machine
end

