-- ==== Sys2Proof/Laws/Decode.lean ====
section
/-! SUPPORT. The field forms of a frame read back what they wrote (R61, R65, R69), one lemma a form and direction. -/

namespace Sys2Proof

open Sys2Proof.Machine

/-- A 16-bit field reads back its value (R13, R65). -/
theorem u16_of_be16 (v : U16) : u16 (v.extractLsb' 8 8) (v.extractLsb' 0 8) = v := by
  apply BitVec.eq_of_toNat_eq
  have := v.isLt
  simp [u16, Nat.shiftRight_eq_div_pow]
  omega

/-- A 16-bit field writes back its bytes (R13, R65). -/
theorem be16_of_u16 (hi lo : Byte) : be16 (u16 hi lo) = [hi, lo] := by
  have h := hi.isLt
  have h' := lo.isLt
  simp only [be16, u16, List.cons.injEq, and_true]
  constructor <;> apply BitVec.eq_of_toNat_eq <;> simp [Nat.shiftRight_eq_div_pow] <;> omega

/-- The number of a 16-bit field (R65). -/
theorem u16_toNat (hi lo : Byte) : (u16 hi lo).toNat = hi.toNat * 256 + lo.toNat := by
  have h := hi.isLt
  have h' := lo.isLt
  simp [u16]
  omega

@[simp] theorem be16_length (v : U16) : (be16 v).length = 2 := rfl

@[simp] theorem be32_length (n : Nat) : (be32 n).length = 4 := rfl

/-- A count reads back (R61, R65). -/
theorem count32_of_be32 {n : Nat} (h : n < 2 ^ 32) :
    count32 (BitVec.ofNat 8 (n / 16777216)) (BitVec.ofNat 8 (n / 65536)) (BitVec.ofNat 8 (n / 256)) (BitVec.ofNat 8 n)
      = n := by
  simp [count32]
  omega

/-- A count is below 2^32 (R65). -/
theorem count32_lt (a b c d : Byte) : count32 a b c d < 2 ^ 32 := by
  have := a.isLt
  have := b.isLt
  have := c.isLt
  have := d.isLt
  simp only [count32]
  omega

/-- A count writes back its bytes (R61, R65). -/
theorem be32_of_count32 (a b c d : Byte) : be32 (count32 a b c d) = [a, b, c, d] := by
  have := a.isLt
  have := b.isLt
  have := c.isLt
  have := d.isLt
  simp only [be32, count32, List.cons.injEq, and_true]
  refine ⟨?_, ?_, ?_, ?_⟩ <;> apply BitVec.eq_of_toNat_eq <;> simp <;> omega

/-- `n` colours take `2n` bytes (R161). -/
@[simp] theorem colorBytes_length (cs : List U16) : (colorBytes cs).length = 2 * cs.length := by
  induction cs with
  | nil => rfl
  | cons c cs ih => simp [colorBytes, ih]; omega

/-- The colours of an F_PIXS frame read back (R64). -/
theorem colorsOf_colorBytes (cs : List U16) : colorsOf (colorBytes cs) = cs := by
  induction cs with
  | nil => rfl
  | cons c cs ih => simp [colorBytes, be16, colorsOf, u16_of_be16, ih]

/-- A whole number of colours writes back its bytes (R64). -/
theorem colorBytes_colorsOf : ∀ (n : Nat) (bs : List Byte), bs.length = 2 * n →
    colorBytes (colorsOf bs) = bs ∧ (colorsOf bs).length = n
  | 0, [], _ => ⟨rfl, rfl⟩
  | n + 1, hi :: lo :: bs, h => by
    have ih := colorBytes_colorsOf n bs (by simp at h; omega)
    simp [colorsOf, colorBytes, be16_of_u16, ih.1, ih.2]
  | _ + 1, [], h => by simp at h
  | n + 1, [_], h => by simp at h; omega
  | 0, _ :: _, h => by simp at h

/-- The selector map read after it is written (R63). -/
@[simp] theorem opOfSel_selOf (op : OpName) : opOfSel (selOf op) = some op := by cases op <;> rfl

/-- The selector map written after it is read (R63). -/
theorem selOf_of_opOfSel {sel : Byte} {op : OpName} (h : opOfSel sel = some op) : selOf op = sel := by
  revert h
  revert op
  revert sel
  decide

/-- A reserved selector is 0x00 or at least 0x0B (R66). -/
theorem opOfSel_none_iff (sel : Byte) : opOfSel sel = none ↔ sel.toNat = 0 ∨ 0x0B ≤ sel.toNat := by
  revert sel
  decide

/-- An orientation code reads back (R69). -/
@[simp] theorem orientOfCode_orientCode (o : Orientation) : orientOfCode (orientCode o) = o := by cases o <;> rfl

/-- An orientation code writes back (R69). -/
@[simp] theorem orientCode_orientOfCode (c : BitVec 2) : orientCode (orientOfCode c) = c := by
  revert c
  decide

/-- The pattern of a variant names that variant (R24). -/
@[simp] theorem orientOfBurst_pat (o : Orientation) : orientOfBurst [pat o] = some o := by cases o <;> rfl

/-- An `ocode` byte without reserved bits is its code (R64). -/
theorem ocode_of_code {b : Byte} (h : b.extractLsb' 2 6 = 0) : (b.extractLsb' 0 2).setWidth 8 = b := by
  revert b
  decide

/-- An orientation code sets no reserved bit (R64). -/
theorem ocode_reserved (o : Orientation) : ((orientCode o).setWidth 8 : Byte).extractLsb' 2 6 = 0 := by
  cases o <;> rfl

/-- A `flags` byte without reserved bits is its two presence bits (R64). -/
theorem flags_of_bits {b : Byte} (h : b.extractLsb' 2 6 = 0) :
    (if b.getLsbD 0 then (0x01 : Byte) else 0x00) ||| (if b.getLsbD 1 then 0x02 else 0x00) = b := by
  revert b
  decide

/-- The flags of `new` set no reserved bit and name the lines given (R64). -/
theorem newFlags_bits (rst : Option RstLine) (bl : Option BlLine) :
    (newFlags rst bl).extractLsb' 2 6 = 0 ∧ (newFlags rst bl).getLsbD 0 = rst.isSome ∧
      (newFlags rst bl).getLsbD 1 = bl.isSome := by
  cases rst <;> cases bl <;> simp [newFlags]

end Sys2Proof
end

