-- ==== Sys2Proof/Laws/State.lean ====
section
/-! SUPPORT. What each update of the state does to each field, once and for all. -/

namespace Sys2Proof.Machine

/-! `emit` appends to the trace and writes nothing else (R28). -/

@[simp] theorem emit_life (e : Ev) (s : State) : (emit e s).life = s.life := rfl
@[simp] theorem emit_chan (e : Ev) (s : State) : (emit e s).chan = s.chan := rfl
@[simp] theorem emit_rst (e : Ev) (s : State) : (emit e s).rst = s.rst := rfl
@[simp] theorem emit_bl (e : Ev) (s : State) : (emit e s).bl = s.bl := rfl
@[simp] theorem emit_orient (e : Ev) (s : State) : (emit e s).orient = s.orient := rfl
@[simp] theorem emit_upc (e : Ev) (s : State) : (emit e s).upc = s.upc := rfl
@[simp] theorem emit_trace (e : Ev) (s : State) : (emit e s).trace = s.trace ++ [e] := rfl
@[simp] theorem emit_refusals (e : Ev) (s : State) : (emit e s).refusals = s.refusals := rfl
@[simp] theorem emit_reqs (e : Ev) (s : State) : (emit e s).reqs = s.reqs := rfl
@[simp] theorem emit_chanIn (e : Ev) (s : State) : (emit e s).chanIn = s.chanIn := rfl
@[simp] theorem emit_rstIn (e : Ev) (s : State) : (emit e s).rstIn = s.rstIn := rfl
@[simp] theorem emit_blIn (e : Ev) (s : State) : (emit e s).blIn = s.blIn := rfl
@[simp] theorem emit_chanFree (e : Ev) (s : State) : (emit e s).chanFree = s.chanFree := rfl
@[simp] theorem emit_rstFree (e : Ev) (s : State) : (emit e s).rstFree = s.rstFree := rfl
@[simp] theorem emit_blFree (e : Ev) (s : State) : (emit e s).blFree = s.blFree := rfl
@[simp] theorem emit_upcFree (e : Ev) (s : State) : (emit e s).upcFree = s.upcFree := rfl

/-! `advance` writes `upc` alone (R29). -/

@[simp] theorem advance_life (s : State) : (advance s).life = s.life := rfl
@[simp] theorem advance_chan (s : State) : (advance s).chan = s.chan := rfl
@[simp] theorem advance_rst (s : State) : (advance s).rst = s.rst := rfl
@[simp] theorem advance_bl (s : State) : (advance s).bl = s.bl := rfl
@[simp] theorem advance_orient (s : State) : (advance s).orient = s.orient := rfl
@[simp] theorem advance_upc (s : State) : (advance s).upc = s.upc + 1 := rfl
@[simp] theorem advance_trace (s : State) : (advance s).trace = s.trace := rfl
@[simp] theorem advance_refusals (s : State) : (advance s).refusals = s.refusals := rfl
@[simp] theorem advance_reqs (s : State) : (advance s).reqs = s.reqs := rfl
@[simp] theorem advance_chanIn (s : State) : (advance s).chanIn = s.chanIn := rfl
@[simp] theorem advance_rstIn (s : State) : (advance s).rstIn = s.rstIn := rfl
@[simp] theorem advance_blIn (s : State) : (advance s).blIn = s.blIn := rfl
@[simp] theorem advance_chanFree (s : State) : (advance s).chanFree = s.chanFree := rfl
@[simp] theorem advance_rstFree (s : State) : (advance s).rstFree = s.rstFree := rfl
@[simp] theorem advance_blFree (s : State) : (advance s).blFree = s.blFree := rfl
@[simp] theorem advance_upcFree (s : State) : (advance s).upcFree = s.upcFree := rfl

/-! `beginRequest` writes the trace and `upc` (R28, R29). -/

@[simp] theorem beginRequest_life (op : OpName) (s : State) : (beginRequest op s).life = s.life := rfl
@[simp] theorem beginRequest_chan (op : OpName) (s : State) : (beginRequest op s).chan = s.chan := rfl
@[simp] theorem beginRequest_rst (op : OpName) (s : State) : (beginRequest op s).rst = s.rst := rfl
@[simp] theorem beginRequest_bl (op : OpName) (s : State) : (beginRequest op s).bl = s.bl := rfl
@[simp] theorem beginRequest_orient (op : OpName) (s : State) : (beginRequest op s).orient = s.orient := rfl
@[simp] theorem beginRequest_upc (op : OpName) (s : State) : (beginRequest op s).upc = 0 := rfl
@[simp] theorem beginRequest_trace (op : OpName) (s : State) : (beginRequest op s).trace = s.trace ++ [.beginEv op] := rfl
@[simp] theorem beginRequest_refusals (op : OpName) (s : State) : (beginRequest op s).refusals = s.refusals := rfl
@[simp] theorem beginRequest_reqs (op : OpName) (s : State) : (beginRequest op s).reqs = s.reqs := rfl
@[simp] theorem beginRequest_chanIn (op : OpName) (s : State) : (beginRequest op s).chanIn = s.chanIn := rfl
@[simp] theorem beginRequest_rstIn (op : OpName) (s : State) : (beginRequest op s).rstIn = s.rstIn := rfl
@[simp] theorem beginRequest_blIn (op : OpName) (s : State) : (beginRequest op s).blIn = s.blIn := rfl
@[simp] theorem beginRequest_chanFree (op : OpName) (s : State) : (beginRequest op s).chanFree = s.chanFree := rfl
@[simp] theorem beginRequest_rstFree (op : OpName) (s : State) : (beginRequest op s).rstFree = s.rstFree := rfl
@[simp] theorem beginRequest_blFree (op : OpName) (s : State) : (beginRequest op s).blFree = s.blFree := rfl
@[simp] theorem beginRequest_upcFree (op : OpName) (s : State) : (beginRequest op s).upcFree = s.upcFree := rfl

/-! `endRequest` writes the trace, and `upc` with its counter (R201, R20). -/

@[simp] theorem endRequest_life (r : Result) (s : State) : (endRequest r s).life = s.life := rfl
@[simp] theorem endRequest_chan (r : Result) (s : State) : (endRequest r s).chan = s.chan := rfl
@[simp] theorem endRequest_rst (r : Result) (s : State) : (endRequest r s).rst = s.rst := rfl
@[simp] theorem endRequest_bl (r : Result) (s : State) : (endRequest r s).bl = s.bl := rfl
@[simp] theorem endRequest_orient (r : Result) (s : State) : (endRequest r s).orient = s.orient := rfl
@[simp] theorem endRequest_upc (r : Result) (s : State) : (endRequest r s).upc = Config.freeUpc s.upcFree := rfl
@[simp] theorem endRequest_trace (r : Result) (s : State) : (endRequest r s).trace = s.trace ++ [.endEv r] := rfl
@[simp] theorem endRequest_refusals (r : Result) (s : State) : (endRequest r s).refusals = s.refusals := rfl
@[simp] theorem endRequest_reqs (r : Result) (s : State) : (endRequest r s).reqs = s.reqs := rfl
@[simp] theorem endRequest_chanIn (r : Result) (s : State) : (endRequest r s).chanIn = s.chanIn := rfl
@[simp] theorem endRequest_rstIn (r : Result) (s : State) : (endRequest r s).rstIn = s.rstIn := rfl
@[simp] theorem endRequest_blIn (r : Result) (s : State) : (endRequest r s).blIn = s.blIn := rfl
@[simp] theorem endRequest_chanFree (r : Result) (s : State) : (endRequest r s).chanFree = s.chanFree := rfl
@[simp] theorem endRequest_rstFree (r : Result) (s : State) : (endRequest r s).rstFree = s.rstFree := rfl
@[simp] theorem endRequest_blFree (r : Result) (s : State) : (endRequest r s).blFree = s.blFree := rfl
@[simp] theorem endRequest_upcFree (r : Result) (s : State) : (endRequest r s).upcFree = s.upcFree + 1 := rfl

/-! `construct` writes the five fields of R100. -/

@[simp] theorem construct_life (c : Chan) (r : Option RstLine) (b : Option BlLine) (s : State) : (construct c r b s).life = .live := rfl
@[simp] theorem construct_chan (c : Chan) (r : Option RstLine) (b : Option BlLine) (s : State) : (construct c r b s).chan = c := rfl
@[simp] theorem construct_rst (c : Chan) (r : Option RstLine) (b : Option BlLine) (s : State) : (construct c r b s).rst = r := rfl
@[simp] theorem construct_bl (c : Chan) (r : Option RstLine) (b : Option BlLine) (s : State) : (construct c r b s).bl = b := rfl
@[simp] theorem construct_orient (c : Chan) (r : Option RstLine) (b : Option BlLine) (s : State) : (construct c r b s).orient = defaultOrientation := rfl
@[simp] theorem construct_upc (c : Chan) (r : Option RstLine) (b : Option BlLine) (s : State) : (construct c r b s).upc = s.upc := rfl
@[simp] theorem construct_trace (c : Chan) (r : Option RstLine) (b : Option BlLine) (s : State) : (construct c r b s).trace = s.trace := rfl
@[simp] theorem construct_refusals (c : Chan) (r : Option RstLine) (b : Option BlLine) (s : State) : (construct c r b s).refusals = s.refusals := rfl
@[simp] theorem construct_reqs (c : Chan) (r : Option RstLine) (b : Option BlLine) (s : State) : (construct c r b s).reqs = s.reqs := rfl
@[simp] theorem construct_chanIn (c : Chan) (r : Option RstLine) (b : Option BlLine) (s : State) : (construct c r b s).chanIn = s.chanIn := rfl
@[simp] theorem construct_rstIn (c : Chan) (r : Option RstLine) (b : Option BlLine) (s : State) : (construct c r b s).rstIn = s.rstIn := rfl
@[simp] theorem construct_blIn (c : Chan) (r : Option RstLine) (b : Option BlLine) (s : State) : (construct c r b s).blIn = s.blIn := rfl
@[simp] theorem construct_chanFree (c : Chan) (r : Option RstLine) (b : Option BlLine) (s : State) : (construct c r b s).chanFree = s.chanFree := rfl
@[simp] theorem construct_rstFree (c : Chan) (r : Option RstLine) (b : Option BlLine) (s : State) : (construct c r b s).rstFree = s.rstFree := rfl
@[simp] theorem construct_blFree (c : Chan) (r : Option RstLine) (b : Option BlLine) (s : State) : (construct c r b s).blFree = s.blFree := rfl
@[simp] theorem construct_upcFree (c : Chan) (r : Option RstLine) (b : Option BlLine) (s : State) : (construct c r b s).upcFree = s.upcFree := rfl

/-! `markRefused` writes the marks and drops the request (R207). -/

@[simp] theorem markRefused_life (r : Refusal) (s : State) : (markRefused r s).life = s.life := rfl
@[simp] theorem markRefused_chan (r : Refusal) (s : State) : (markRefused r s).chan = s.chan := rfl
@[simp] theorem markRefused_rst (r : Refusal) (s : State) : (markRefused r s).rst = s.rst := rfl
@[simp] theorem markRefused_bl (r : Refusal) (s : State) : (markRefused r s).bl = s.bl := rfl
@[simp] theorem markRefused_orient (r : Refusal) (s : State) : (markRefused r s).orient = s.orient := rfl
@[simp] theorem markRefused_upc (r : Refusal) (s : State) : (markRefused r s).upc = s.upc := rfl
@[simp] theorem markRefused_trace (r : Refusal) (s : State) : (markRefused r s).trace = s.trace := rfl
@[simp] theorem markRefused_refusals (r : Refusal) (s : State) : (markRefused r s).refusals = s.refusals ++ [r] := rfl
@[simp] theorem markRefused_reqs (r : Refusal) (s : State) : (markRefused r s).reqs = s.reqs.tail := rfl
@[simp] theorem markRefused_chanIn (r : Refusal) (s : State) : (markRefused r s).chanIn = s.chanIn := rfl
@[simp] theorem markRefused_rstIn (r : Refusal) (s : State) : (markRefused r s).rstIn = s.rstIn := rfl
@[simp] theorem markRefused_blIn (r : Refusal) (s : State) : (markRefused r s).blIn = s.blIn := rfl
@[simp] theorem markRefused_chanFree (r : Refusal) (s : State) : (markRefused r s).chanFree = s.chanFree := rfl
@[simp] theorem markRefused_rstFree (r : Refusal) (s : State) : (markRefused r s).rstFree = s.rstFree := rfl
@[simp] theorem markRefused_blFree (r : Refusal) (s : State) : (markRefused r s).blFree = s.blFree := rfl
@[simp] theorem markRefused_upcFree (r : Refusal) (s : State) : (markRefused r s).upcFree = s.upcFree := rfl

/-! `placeRequest` writes the request queue alone. -/

@[simp] theorem placeRequest_life (r : Request) (s : State) : (placeRequest r s).life = s.life := rfl
@[simp] theorem placeRequest_chan (r : Request) (s : State) : (placeRequest r s).chan = s.chan := rfl
@[simp] theorem placeRequest_rst (r : Request) (s : State) : (placeRequest r s).rst = s.rst := rfl
@[simp] theorem placeRequest_bl (r : Request) (s : State) : (placeRequest r s).bl = s.bl := rfl
@[simp] theorem placeRequest_orient (r : Request) (s : State) : (placeRequest r s).orient = s.orient := rfl
@[simp] theorem placeRequest_upc (r : Request) (s : State) : (placeRequest r s).upc = s.upc := rfl
@[simp] theorem placeRequest_trace (r : Request) (s : State) : (placeRequest r s).trace = s.trace := rfl
@[simp] theorem placeRequest_refusals (r : Request) (s : State) : (placeRequest r s).refusals = s.refusals := rfl
@[simp] theorem placeRequest_reqs (r : Request) (s : State) : (placeRequest r s).reqs = r :: s.reqs := rfl
@[simp] theorem placeRequest_chanIn (r : Request) (s : State) : (placeRequest r s).chanIn = s.chanIn := rfl
@[simp] theorem placeRequest_rstIn (r : Request) (s : State) : (placeRequest r s).rstIn = s.rstIn := rfl
@[simp] theorem placeRequest_blIn (r : Request) (s : State) : (placeRequest r s).blIn = s.blIn := rfl
@[simp] theorem placeRequest_chanFree (r : Request) (s : State) : (placeRequest r s).chanFree = s.chanFree := rfl
@[simp] theorem placeRequest_rstFree (r : Request) (s : State) : (placeRequest r s).rstFree = s.rstFree := rfl
@[simp] theorem placeRequest_blFree (r : Request) (s : State) : (placeRequest r s).blFree = s.blFree := rfl
@[simp] theorem placeRequest_upcFree (r : Request) (s : State) : (placeRequest r s).upcFree = s.upcFree := rfl

end Sys2Proof.Machine
end

