-- ==== Sys2Proof/Laws/Ops.lean ====
section
/-! SUPPORT. What each shared operation can do: the oracles (R48), a primitive (R31, R44 to R47), and the frame of a
micro-program (R30). -/

namespace Sys2Proof.Machine

/-! ### The oracles -/

/-- The state after one channel answer. -/
def afterChan (s : State) : State := (chanOracle s).2

/-- The state after one answer of a line. -/
def afterPin (line : Line) (s : State) : State := (pinOracle line s).2

/-- The next answer of a line. -/
def pinAnsNext (line : Line) (s : State) : PinAns :=
  match line with
  | .rst => rstAnsAt s 0
  | .bl => blAnsAt s 0

theorem chanOracle_eq (s : State) : chanOracle s = (chanAnsAt s 0, afterChan s) := by
  unfold afterChan chanOracle chanAnsAt
  cases s.chanIn <;> simp

theorem pinOracle_eq (line : Line) (s : State) : pinOracle line s = (pinAnsNext line s, afterPin line s) := by
  unfold afterPin pinOracle pinAnsNext rstAnsAt blAnsAt
  cases line
  · cases s.rstIn <;> simp
  · cases s.blIn <;> simp

theorem chanAnsAt_cons {s : State} {a : ChanAns} {l : List ChanAns} (h : s.chanIn = a :: l) :
    chanAnsAt s 0 = a := by simp [chanAnsAt, h]

/-- An answer depends on the listed answers and the counter alone. -/
theorem chanAnsAt_congr {s t : State} (h : t.chanIn = s.chanIn) (h' : t.chanFree = s.chanFree) (k : Nat) :
    chanAnsAt t k = chanAnsAt s k := by simp [chanAnsAt, h, h']

theorem rstAnsAt_congr {s t : State} (h : t.rstIn = s.rstIn) (h' : t.rstFree = s.rstFree) (k : Nat) :
    rstAnsAt t k = rstAnsAt s k := by simp [rstAnsAt, h, h']

theorem blAnsAt_congr {s t : State} (h : t.blIn = s.blIn) (h' : t.blFree = s.blFree) (k : Nat) :
    blAnsAt t k = blAnsAt s k := by simp [blAnsAt, h, h']

/-- What drawing answers leaves alone: everything but the inputs and their counters. -/
structure OnlyInputs (s t : State) : Prop where
  life : t.life = s.life
  chan : t.chan = s.chan
  rst : t.rst = s.rst
  bl : t.bl = s.bl
  orient : t.orient = s.orient
  upc : t.upc = s.upc
  trace : t.trace = s.trace
  refusals : t.refusals = s.refusals
  reqs : t.reqs = s.reqs
  upcFree : t.upcFree = s.upcFree

theorem afterChan_only (s : State) : OnlyInputs s (afterChan s) := by
  unfold afterChan chanOracle
  cases s.chanIn <;> constructor <;> rfl

theorem afterPin_only (line : Line) (s : State) : OnlyInputs s (afterPin line s) := by
  unfold afterPin pinOracle
  cases line
  · cases s.rstIn <;> constructor <;> rfl
  · cases s.blIn <;> constructor <;> rfl

/-- A channel answer leaves the lines' answers alone. -/
theorem afterChan_pins (s : State) : (afterChan s).rstIn = s.rstIn ∧ (afterChan s).rstFree = s.rstFree ∧
    (afterChan s).blIn = s.blIn ∧ (afterChan s).blFree = s.blFree := by
  unfold afterChan chanOracle
  cases s.chanIn <;> exact ⟨rfl, rfl, rfl, rfl⟩

/-- A line's answer leaves the channel's answers alone. -/
theorem afterPin_chan (line : Line) (s : State) :
    (afterPin line s).chanIn = s.chanIn ∧ (afterPin line s).chanFree = s.chanFree := by
  unfold afterPin pinOracle
  cases line
  · cases s.rstIn <;> exact ⟨rfl, rfl⟩
  · cases s.blIn <;> exact ⟨rfl, rfl⟩

/-- Reset-line and backlight answers are drawn apart. -/
theorem afterPin_rst_bl (s : State) :
    (afterPin .rst s).blIn = s.blIn ∧ (afterPin .rst s).blFree = s.blFree := by
  unfold afterPin pinOracle
  cases s.rstIn <;> exact ⟨rfl, rfl⟩

theorem afterPin_bl_rst (s : State) :
    (afterPin .bl s).rstIn = s.rstIn ∧ (afterPin .bl s).rstFree = s.rstFree := by
  unfold afterPin pinOracle
  cases s.blIn <;> exact ⟨rfl, rfl⟩

/-- Drawing an answer moves the coming answers up by one. -/
theorem chanAnsAt_afterChan (s : State) (k : Nat) : chanAnsAt (afterChan s) k = chanAnsAt s (k + 1) := by
  unfold afterChan chanOracle chanAnsAt
  cases h : s.chanIn with
  | nil => simp [Nat.add_assoc, Nat.add_comm 1 k]
  | cons a l => simp

theorem rstAnsAt_afterPin (s : State) (k : Nat) : rstAnsAt (afterPin .rst s) k = rstAnsAt s (k + 1) := by
  unfold afterPin pinOracle rstAnsAt
  cases h : s.rstIn with
  | nil => simp [Nat.add_assoc, Nat.add_comm 1 k]
  | cons a l => simp

theorem blAnsAt_afterPin (s : State) (k : Nat) : blAnsAt (afterPin .bl s) k = blAnsAt s (k + 1) := by
  unfold afterPin pinOracle blAnsAt
  cases h : s.blIn with
  | nil => simp [Nat.add_assoc, Nat.add_comm 1 k]
  | cons a l => simp

/-! ### One primitive -/

/-- The event a primitive appends (R28): none for `SETORIENT`. -/
def primEvent (p : Prim) (s : State) : List Ev :=
  match p with
  | .cmd b => [.cmdEv b (chanAnsAt s 0)]
  | .data bs => [.dataEv bs (chanAnsAt s 0)]
  | .pin line lv => [.pinEv line lv (pinAnsNext line s)]
  | .delay us => [.delayEv us]
  | .setOrient _ => []

/-- What a primitive raises (R44 to R47). -/
def primRaise (p : Prim) (s : State) : Option Err :=
  match p with
  | .cmd _ => chanErr (chanAnsAt s 0)
  | .data _ => chanErr (chanAnsAt s 0)
  | .pin line _ => pinErr (pinAnsNext line s)
  | .delay _ => none
  | .setOrient _ => none

/-- The orientation a primitive leaves (R31). -/
def primOrient (p : Prim) (o : Orientation) : Orientation :=
  match p with
  | .setOrient o' => o'
  | .cmd _ => o
  | .data _ => o
  | .pin _ _ => o
  | .delay _ => o

/-- The answers a primitive draws from the channel, the reset line and the backlight line. -/
def primDraws : Prim → Nat × Nat × Nat
  | .cmd _ => (1, 0, 0)
  | .data _ => (1, 0, 0)
  | .pin .rst _ => (0, 1, 0)
  | .pin .bl _ => (0, 0, 1)
  | .delay _ => (0, 0, 0)
  | .setOrient _ => (0, 0, 0)

/-- A primitive raises what `primRaise` says. -/
theorem stepPrim_raise (p : Prim) (s : State) : (stepPrim p s).2 = primRaise p s := by
  cases p <;> simp [stepPrim, primCmd, primData, primPin, primDelay, primSetOrient, primRaise, chanOracle_eq, pinOracle_eq]

/-- All a primitive does: its event, its orientation, the answers it draws, and nothing else. -/
structure PrimDone (p : Prim) (s t : State) : Prop where
  life : t.life = s.life
  chan : t.chan = s.chan
  rst : t.rst = s.rst
  bl : t.bl = s.bl
  orient : t.orient = primOrient p s.orient
  upc : t.upc = s.upc
  trace : t.trace = s.trace ++ primEvent p s
  refusals : t.refusals = s.refusals
  reqs : t.reqs = s.reqs
  upcFree : t.upcFree = s.upcFree
  chanAns : ∀ k, chanAnsAt t k = chanAnsAt s (k + (primDraws p).1)
  rstAns : ∀ k, rstAnsAt t k = rstAnsAt s (k + (primDraws p).2.1)
  blAns : ∀ k, blAnsAt t k = blAnsAt s (k + (primDraws p).2.2)

theorem emit_afterChan_done (e : Ev) (p : Prim) (s : State) (ho : primOrient p s.orient = s.orient)
    (he : primEvent p s = [e]) (hd : primDraws p = (1, 0, 0)) : PrimDone p s (emit e (afterChan s)) := by
  have h := afterChan_only s
  obtain ⟨h1, h2, h3, h4⟩ := afterChan_pins s
  refine ⟨h.life, h.chan, h.rst, h.bl, by simp [h.orient, ho], h.upc, by simp [h.trace, he], h.refusals, h.reqs,
    h.upcFree, fun k => ?_, fun k => ?_, fun k => ?_⟩
  · rw [hd, ← chanAnsAt_afterChan]; exact chanAnsAt_congr rfl rfl k
  · rw [hd]; exact rstAnsAt_congr h1 h2 k
  · rw [hd]; exact blAnsAt_congr h3 h4 k

theorem stepPrim_done (p : Prim) (s : State) : PrimDone p s (stepPrim p s).1 := by
  cases p with
  | cmd b =>
    simp only [stepPrim, primCmd, chanOracle_eq]
    exact emit_afterChan_done _ _ s rfl rfl rfl
  | data bs =>
    simp only [stepPrim, primData, chanOracle_eq]
    exact emit_afterChan_done _ _ s rfl rfl rfl
  | pin line lv =>
    simp only [stepPrim, primPin, pinOracle_eq]
    have h := afterPin_only line s
    obtain ⟨h1, h2⟩ := afterPin_chan line s
    refine ⟨h.life, h.chan, h.rst, h.bl, h.orient, h.upc, by simp [h.trace, primEvent], h.refusals, h.reqs, h.upcFree,
      fun k => ?_, fun k => ?_, fun k => ?_⟩
    · cases line <;> exact chanAnsAt_congr h1 h2 k
    · cases line with
      | rst => rw [show rstAnsAt s (k + (primDraws (.pin .rst lv)).2.1) = rstAnsAt s (k + 1) from rfl, ← rstAnsAt_afterPin]; rfl
      | bl => exact rstAnsAt_congr (afterPin_bl_rst s).1 (afterPin_bl_rst s).2 k
    · cases line with
      | rst => exact blAnsAt_congr (afterPin_rst_bl s).1 (afterPin_rst_bl s).2 k
      | bl => rw [show blAnsAt s (k + (primDraws (.pin .bl lv)).2.2) = blAnsAt s (k + 1) from rfl, ← blAnsAt_afterPin]; rfl
  | delay us =>
    exact ⟨rfl, rfl, rfl, rfl, rfl, rfl, rfl, rfl, rfl, rfl, fun _ => rfl, fun _ => rfl, fun _ => rfl⟩
  | setOrient o =>
    exact ⟨rfl, rfl, rfl, rfl, rfl, rfl, (List.append_nil _).symm, rfl, rfl, rfl, fun _ => rfl, fun _ => rfl, fun _ => rfl⟩

/-! ### Micro-programs -/

theorem runPrims_nil (s : State) : runPrims [] s = (s, none) := rfl

/-- The first primitive of a program that raises nothing is followed by the rest, `upc` advanced. -/
theorem runPrims_cons_ok {p : Prim} {s : State} (ps : List Prim) (h : primRaise p s = none) :
    runPrims (p :: ps) s = runPrims ps (advance (stepPrim p s).1) := by
  rw [runPrims, ← Prod.mk.eta (p := stepPrim p s), stepPrim_raise, h]

/-- A primitive that raises ends the program with its error (R203). -/
theorem runPrims_cons_raise {p : Prim} {s : State} {e : Err} (ps : List Prim) (h : primRaise p s = some e) :
    runPrims (p :: ps) s = ((stepPrim p s).1, some e) := by
  rw [runPrims, ← Prod.mk.eta (p := stepPrim p s), stepPrim_raise, h]

/-- A program in two parts: the second runs where the first ran through. -/
theorem runPrims_append (ps qs : List Prim) (s : State) :
    runPrims (ps ++ qs) s =
      match runPrims ps s with
      | (t, none) => runPrims qs t
      | (t, some e) => (t, some e) := by
  induction ps generalizing s with
  | nil => rfl
  | cons p ps ih =>
    rw [List.cons_append]
    cases h : primRaise p s with
    | none => rw [runPrims_cons_ok _ h, runPrims_cons_ok _ h, ih]
    | some e => rw [runPrims_cons_raise _ h, runPrims_cons_raise _ h]

/-- What no micro-program writes: only `new`, `release` and `SETORIENT` write block state (R102). -/
structure Framed (s t : State) : Prop where
  life : t.life = s.life
  chan : t.chan = s.chan
  rst : t.rst = s.rst
  bl : t.bl = s.bl
  refusals : t.refusals = s.refusals
  reqs : t.reqs = s.reqs
  upcFree : t.upcFree = s.upcFree

theorem Framed.trans {s t u : State} (h : Framed s t) (h' : Framed t u) : Framed s u :=
  ⟨h'.life.trans h.life, h'.chan.trans h.chan, h'.rst.trans h.rst, h'.bl.trans h.bl, h'.refusals.trans h.refusals,
    h'.reqs.trans h.reqs, h'.upcFree.trans h.upcFree⟩

theorem PrimDone.framed {p : Prim} {s t : State} (h : PrimDone p s t) : Framed s t :=
  ⟨h.life, h.chan, h.rst, h.bl, h.refusals, h.reqs, h.upcFree⟩

theorem advance_framed (s : State) : Framed s (advance s) := ⟨rfl, rfl, rfl, rfl, rfl, rfl, rfl⟩

theorem runPrims_framed (ps : List Prim) (s : State) : Framed s (runPrims ps s).1 := by
  induction ps generalizing s with
  | nil => exact ⟨rfl, rfl, rfl, rfl, rfl, rfl, rfl⟩
  | cons p ps ih =>
    have hp := (stepPrim_done p s).framed
    cases h : primRaise p s with
    | none =>
      rw [runPrims_cons_ok _ h]
      exact hp.trans ((advance_framed _).trans (ih _))
    | some e =>
      rw [runPrims_cons_raise _ h]
      exact hp

/-- A micro-program only appends to the trace (R28). -/
theorem runPrims_trace_grows (ps : List Prim) (s : State) : s.trace <+: (runPrims ps s).1.trace := by
  induction ps generalizing s with
  | nil => exact List.prefix_rfl
  | cons p ps ih =>
    have hp : s.trace <+: (stepPrim p s).1.trace := by
      rw [(stepPrim_done p s).trace]
      exact List.prefix_append _ _
    cases h : primRaise p s with
    | none =>
      rw [runPrims_cons_ok _ h]
      exact hp.trans (ih (advance (stepPrim p s).1))
    | some e =>
      rw [runPrims_cons_raise _ h]
      exact hp

end Sys2Proof.Machine
end

