-- ==== Sys2Proof/Laws/Exec.lean ====
section
/-! SUPPORT. What a whole request does: the run with every answer OK, the run stopped by its first failure (R114, R203),
and what a served request leaves alone (R102). -/

namespace Sys2Proof.Machine

/-- The event of a primitive whose answer is OK. -/
def okEvent : Prim → List Ev
  | .cmd b => [.cmdEv b .ok]
  | .data bs => [.dataEv bs .ok]
  | .pin line lv => [.pinEv line lv .ok]
  | .delay us => [.delayEv us]
  | .setOrient _ => []

/-- The events of a micro-program whose answers are all OK. -/
def okEvents : List Prim → List Ev
  | [] => []
  | p :: ps => okEvent p ++ okEvents ps

/-- The channel answers a micro-program draws. -/
def chanDraws : List Prim → Nat
  | [] => 0
  | p :: ps => (primDraws p).1 + chanDraws ps

/-- The reset-line answers a micro-program draws. -/
def rstDraws : List Prim → Nat
  | [] => 0
  | p :: ps => (primDraws p).2.1 + rstDraws ps

/-- The backlight-line answers a micro-program draws. -/
def blDraws : List Prim → Nat
  | [] => 0
  | p :: ps => (primDraws p).2.2 + blDraws ps

@[simp] theorem okEvents_append (ps qs : List Prim) : okEvents (ps ++ qs) = okEvents ps ++ okEvents qs := by
  induction ps with
  | nil => rfl
  | cons p ps ih => simp [okEvents, ih]

@[simp] theorem chanDraws_append (ps qs : List Prim) : chanDraws (ps ++ qs) = chanDraws ps + chanDraws qs := by
  induction ps with
  | nil => simp [chanDraws]
  | cons p ps ih => simp [chanDraws, ih, Nat.add_assoc]

@[simp] theorem rstDraws_append (ps qs : List Prim) : rstDraws (ps ++ qs) = rstDraws ps + rstDraws qs := by
  induction ps with
  | nil => simp [rstDraws]
  | cons p ps ih => simp [rstDraws, ih, Nat.add_assoc]

@[simp] theorem blDraws_append (ps qs : List Prim) : blDraws (ps ++ qs) = blDraws ps + blDraws qs := by
  induction ps with
  | nil => simp [blDraws]
  | cons p ps ih => simp [blDraws, ih, Nat.add_assoc]

/-- The orientation a micro-program leaves when it runs through. -/
def progOrient (ps : List Prim) (o : Orientation) : Orientation := ps.foldl (fun o p => primOrient p o) o

/-- Every answer a micro-program draws is OK. -/
structure AnswersOk (ps : List Prim) (s : State) : Prop where
  chan : ∀ k, k < chanDraws ps → chanAnsAt s k = .ok
  rst : ∀ k, k < rstDraws ps → rstAnsAt s k = .ok
  bl : ∀ k, k < blDraws ps → blAnsAt s k = .ok

/-- All a micro-program does when it runs through. -/
structure RanThrough (ps : List Prim) (s t : State) : Prop where
  framed : Framed s t
  trace : t.trace = s.trace ++ okEvents ps
  orient : t.orient = progOrient ps s.orient
  upc : t.upc = s.upc + ps.length
  chanAns : ∀ k, chanAnsAt t k = chanAnsAt s (k + chanDraws ps)
  rstAns : ∀ k, rstAnsAt t k = rstAnsAt s (k + rstDraws ps)
  blAns : ∀ k, blAnsAt t k = blAnsAt s (k + blDraws ps)

theorem chanDraws_cons (p : Prim) (ps : List Prim) : chanDraws (p :: ps) = (primDraws p).1 + chanDraws ps := rfl

theorem rstDraws_cons (p : Prim) (ps : List Prim) : rstDraws (p :: ps) = (primDraws p).2.1 + rstDraws ps := rfl

theorem blDraws_cons (p : Prim) (ps : List Prim) : blDraws (p :: ps) = (primDraws p).2.2 + blDraws ps := rfl

/-- A primitive whose answers are OK raises nothing and appends its OK event. -/
theorem prim_ok {p : Prim} {s : State} (h : AnswersOk [p] s) : primRaise p s = none ∧ primEvent p s = okEvent p := by
  obtain ⟨hc, hr, hb⟩ := h
  cases p with
  | cmd b => have := hc 0 (by simp [chanDraws, primDraws]); simp [primRaise, primEvent, okEvent, this, chanErr]
  | data bs => have := hc 0 (by simp [chanDraws, primDraws]); simp [primRaise, primEvent, okEvent, this, chanErr]
  | pin line lv =>
    cases line with
    | rst => have := hr 0 (by simp [rstDraws, primDraws]); simp [primRaise, primEvent, okEvent, this, pinErr, pinAnsNext]
    | bl => have := hb 0 (by simp [blDraws, primDraws]); simp [primRaise, primEvent, okEvent, this, pinErr, pinAnsNext]
  | delay us => exact ⟨rfl, rfl⟩
  | setOrient o => exact ⟨rfl, rfl⟩

theorem AnswersOk.head {p : Prim} {ps : List Prim} {s : State} (h : AnswersOk (p :: ps) s) : AnswersOk [p] s := by
  obtain ⟨hc, hr, hb⟩ := h
  rw [chanDraws_cons] at hc
  rw [rstDraws_cons] at hr
  rw [blDraws_cons] at hb
  refine ⟨fun k hk => hc k ?_, fun k hk => hr k ?_, fun k hk => hb k ?_⟩
  · simp [chanDraws] at hk; omega
  · simp [rstDraws] at hk; omega
  · simp [blDraws] at hk; omega

theorem AnswersOk.tail {p : Prim} {ps : List Prim} {s t : State} (h : AnswersOk (p :: ps) s) (ht : PrimDone p s t) :
    AnswersOk ps (advance t) := by
  obtain ⟨hc, hr, hb⟩ := h
  rw [chanDraws_cons] at hc
  rw [rstDraws_cons] at hr
  rw [blDraws_cons] at hb
  refine ⟨fun k hk => ?_, fun k hk => ?_, fun k hk => ?_⟩
  · exact (ht.chanAns k).trans (hc _ (by omega))
  · exact (ht.rstAns k).trans (hr _ (by omega))
  · exact (ht.blAns k).trans (hb _ (by omega))

@[simp] theorem progOrient_append (ps qs : List Prim) (o : Orientation) :
    progOrient (ps ++ qs) o = progOrient qs (progOrient ps o) := by simp [progOrient]

/-- Success (R30): with every answer OK a micro-program runs through. -/
theorem runPrims_ok {ps : List Prim} {s : State} (h : AnswersOk ps s) :
    ∃ t, runPrims ps s = (t, none) ∧ RanThrough ps s t := by
  induction ps generalizing s with
  | nil =>
    exact ⟨s, rfl, ⟨rfl, rfl, rfl, rfl, rfl, rfl, rfl⟩, by simp [okEvents], rfl, by simp, fun _ => rfl, fun _ => rfl,
      fun _ => rfl⟩
  | cons p ps ih =>
    have hd := stepPrim_done p s
    obtain ⟨hraise, hev⟩ := prim_ok h.head
    obtain ⟨t, ht, r⟩ := ih (h.tail hd)
    refine ⟨t, by rw [runPrims_cons_ok _ hraise, ht], hd.framed.trans ((advance_framed _).trans r.framed), ?_, ?_, ?_,
      fun k => ?_, fun k => ?_, fun k => ?_⟩
    · simp [r.trace, hd.trace, hev, okEvents]
    · simp [r.orient, hd.orient, progOrient]
    · simp only [r.upc, advance_upc, hd.upc, List.length_cons]; omega
    · rw [r.chanAns, chanDraws_cons, Nat.add_comm (primDraws p).1, ← Nat.add_assoc]; exact hd.chanAns _
    · rw [r.rstAns, rstDraws_cons, Nat.add_comm (primDraws p).2.1, ← Nat.add_assoc]; exact hd.rstAns _
    · rw [r.blAns, blDraws_cons, Nat.add_comm (primDraws p).2.2, ← Nat.add_assoc]; exact hd.blAns _

/-- Failure (R114, R203): the primitives before the failing one have had their effect, the failing one its event, and
nothing after it runs. -/
theorem runPrims_fail {ps : List Prim} {p : Prim} {s : State} (qs : List Prim) (h : AnswersOk ps s) :
    ∃ t, RanThrough ps s t ∧ ∀ e, primRaise p t = some e → runPrims (ps ++ p :: qs) s = ((stepPrim p t).1, some e) := by
  obtain ⟨t, ht, r⟩ := runPrims_ok h
  refine ⟨t, r, fun e he => ?_⟩
  rw [runPrims_append, ht]
  exact runPrims_cons_raise _ he

/-- A micro-program without pins leaves the lines' answers alone. -/
theorem runPrims_pins_untouched {ps : List Prim} (h : ∀ line lv, Prim.pin line lv ∉ ps) (s : State) :
    (runPrims ps s).1.rstIn = s.rstIn ∧ (runPrims ps s).1.rstFree = s.rstFree ∧
      (runPrims ps s).1.blIn = s.blIn ∧ (runPrims ps s).1.blFree = s.blFree := by
  induction ps generalizing s with
  | nil => exact ⟨rfl, rfl, rfl, rfl⟩
  | cons p ps ih =>
    have hp : (stepPrim p s).1.rstIn = s.rstIn ∧ (stepPrim p s).1.rstFree = s.rstFree ∧
        (stepPrim p s).1.blIn = s.blIn ∧ (stepPrim p s).1.blFree = s.blFree := by
      cases p with
      | cmd b => simpa [stepPrim, primCmd, chanOracle_eq] using afterChan_pins s
      | data bs => simpa [stepPrim, primData, chanOracle_eq] using afterChan_pins s
      | pin line lv => exact absurd List.mem_cons_self (h line lv)
      | delay us => exact ⟨rfl, rfl, rfl, rfl⟩
      | setOrient o => exact ⟨rfl, rfl, rfl, rfl⟩
    cases hr : primRaise p s with
    | none =>
      rw [runPrims_cons_ok _ hr]
      obtain ⟨h1, h2, h3, h4⟩ := ih (fun l lv hm => h l lv (List.mem_cons_of_mem _ hm)) (advance (stepPrim p s).1)
      exact ⟨h1.trans hp.1, h2.trans hp.2.1, h3.trans hp.2.2.1, h4.trans hp.2.2.2⟩
    | some e =>
      rw [runPrims_cons_raise _ hr]
      exact hp

/-- A micro-program without bursts leaves the channel's answers alone. -/
theorem runPrims_chan_untouched {ps : List Prim} (h : ∀ b, Prim.cmd b ∉ ps) (h' : ∀ bs, Prim.data bs ∉ ps) (s : State) :
    (runPrims ps s).1.chanIn = s.chanIn ∧ (runPrims ps s).1.chanFree = s.chanFree := by
  induction ps generalizing s with
  | nil => exact ⟨rfl, rfl⟩
  | cons p ps ih =>
    have hp : (stepPrim p s).1.chanIn = s.chanIn ∧ (stepPrim p s).1.chanFree = s.chanFree := by
      cases p with
      | cmd b => exact absurd List.mem_cons_self (h b)
      | data bs => exact absurd List.mem_cons_self (h' bs)
      | pin line lv => simpa [stepPrim, primPin, pinOracle_eq] using afterPin_chan line s
      | delay us => exact ⟨rfl, rfl⟩
      | setOrient o => exact ⟨rfl, rfl⟩
    cases hr : primRaise p s with
    | none =>
      rw [runPrims_cons_ok _ hr]
      obtain ⟨h1, h2⟩ := ih (fun b hm => h b (List.mem_cons_of_mem _ hm)) (fun b hm => h' b (List.mem_cons_of_mem _ hm))
        (advance (stepPrim p s).1)
      exact ⟨h1.trans hp.1, h2.trans hp.2⟩
    | some e =>
      rw [runPrims_cons_raise _ hr]
      exact hp

/-- A micro-program without backlight pins leaves the backlight line's answers alone. -/
theorem runPrims_bl_untouched {ps : List Prim} (h : ∀ lv, Prim.pin .bl lv ∉ ps) (s : State) :
    (runPrims ps s).1.blIn = s.blIn ∧ (runPrims ps s).1.blFree = s.blFree := by
  induction ps generalizing s with
  | nil => exact ⟨rfl, rfl⟩
  | cons p ps ih =>
    have hp : (stepPrim p s).1.blIn = s.blIn ∧ (stepPrim p s).1.blFree = s.blFree := by
      cases p with
      | cmd b => simpa [stepPrim, primCmd, chanOracle_eq] using (afterChan_pins s).2.2
      | data bs => simpa [stepPrim, primData, chanOracle_eq] using (afterChan_pins s).2.2
      | pin line lv =>
        cases line with
        | rst => simpa [stepPrim, primPin, pinOracle_eq] using afterPin_rst_bl s
        | bl => exact absurd List.mem_cons_self (h lv)
      | delay us => exact ⟨rfl, rfl⟩
      | setOrient o => exact ⟨rfl, rfl⟩
    cases hr : primRaise p s with
    | none =>
      rw [runPrims_cons_ok _ hr]
      obtain ⟨h1, h2⟩ := ih (fun lv hm => h lv (List.mem_cons_of_mem _ hm)) (advance (stepPrim p s).1)
      exact ⟨h1.trans hp.1, h2.trans hp.2⟩
    | some e =>
      rw [runPrims_cons_raise _ hr]
      exact hp

/-- The cache after a micro-program is as it was or one its `SETORIENT`s wrote (R31). -/
theorem runPrims_orient_cases (ps : List Prim) (s : State) :
    (runPrims ps s).1.orient = s.orient ∨ Prim.setOrient (runPrims ps s).1.orient ∈ ps := by
  induction ps generalizing s with
  | nil => exact .inl rfl
  | cons p ps ih =>
    have hp : (stepPrim p s).1.orient = s.orient ∨ p = .setOrient (stepPrim p s).1.orient := by
      rw [(stepPrim_done p s).orient]
      cases p <;> first | exact .inl rfl | exact .inr rfl
    have hm : (stepPrim p s).1.orient = s.orient ∨ Prim.setOrient (stepPrim p s).1.orient ∈ p :: ps :=
      hp.imp_right fun h => by rw [← h]; exact List.mem_cons_self
    cases hr : primRaise p s with
    | none =>
      rw [runPrims_cons_ok _ hr]
      rcases ih (advance (stepPrim p s).1) with h1 | h1
      · rw [h1]
        exact hm
      · exact .inr (List.mem_cons_of_mem _ h1)
    | some e =>
      rw [runPrims_cons_raise _ hr]
      exact hm

/-! ### Served requests -/

/-- The start of a request leaves the coming answers alone. -/
theorem beginRequest_answers (op : OpName) (s : State) {ps : List Prim} (h : AnswersOk ps s) :
    AnswersOk ps (beginRequest op s) := ⟨h.chan, h.rst, h.bl⟩

/-- The start and the end of a request write the trace, `upc` and its counter only. -/
theorem endRequest_framed_trace (r : Result) (s : State) : (endRequest r s).trace = s.trace ++ [.endEv r] := rfl

theorem finishRequest_none (s : State) : finishRequest (s, none) = endRequest .ok s := rfl

theorem finishRequest_some (s : State) (e : Err) : finishRequest (s, some e) = endRequest (.error e) s := rfl

/-- A Live block serves every micro-program to a next state (R210, R30). -/
theorem serveProgram_live {s : State} (op : OpName) (ps : List Prim) (h : s.life = .live) :
    serveProgram op ps s = .next (finishRequest (runPrims ps (beginRequest op s))) := by
  simp [serveProgram, h]

/-- A block that is not Live refuses every micro-program (R21, R207). -/
theorem serveProgram_not_live {s : State} (op : OpName) (ps : List Prim) (h : s.life ≠ .live) :
    serveProgram op ps s = .refused .notLive := by
  simp [serveProgram, h]

/-- A served micro-program's next state is its finished run. -/
theorem serveProgram_next {op : OpName} {ps : List Prim} {s t : State} (h : serveProgram op ps s = .next t) :
    s.life = .live ∧ t = finishRequest (runPrims ps (beginRequest op s)) := by
  unfold serveProgram at h
  split at h
  · cases h; exact ⟨‹_›, rfl⟩
  · cases h

/-- A request with every answer OK (R30, R201): its markers round the OK events, `Ok`, and the state it leaves. -/
theorem serveProgram_ok {op : OpName} {ps : List Prim} {s : State} (hl : s.life = .live) (h : AnswersOk ps s) :
    ∃ t, serveProgram op ps s = .next t ∧
      t.trace = s.trace ++ .beginEv op :: okEvents ps ++ [.endEv .ok] ∧ t.orient = progOrient ps s.orient ∧
      t.life = s.life ∧ t.chan = s.chan ∧ t.rst = s.rst ∧ t.bl = s.bl ∧ t.reqs = s.reqs ∧ t.refusals = s.refusals := by
  obtain ⟨t, ht, r⟩ := runPrims_ok (beginRequest_answers op s h)
  refine ⟨endRequest .ok t, by rw [serveProgram_live _ _ hl, ht, finishRequest_none], ?_, r.orient, r.framed.life,
    r.framed.chan, r.framed.rst, r.framed.bl, r.framed.reqs, r.framed.refusals⟩
  simp [r.trace]

/-- A request whose first failure is a channel burst's (R114, R203): everything before it and its own event, `Transport`,
and nothing else. -/
theorem serveProgram_burst_fail {op : OpName} {ps : List Prim} {p : Prim} {b : Byte} {bs : List Byte} {s : State} {ev : Ev}
    (qs : List Prim)
    (hl : s.life = .live) (h : AnswersOk ps s) (hf : chanAnsAt s (chanDraws ps) = .fail)
    (hp : p = .cmd b ∧ ev = .cmdEv b .fail ∨ p = .data bs ∧ ev = .dataEv bs .fail) :
    ∃ t, serveProgram op (ps ++ p :: qs) s = .next t ∧
      t.trace = s.trace ++ .beginEv op :: okEvents ps ++ [ev, .endEv (.error .transport)] ∧
      t.orient = progOrient ps s.orient ∧
      t.life = s.life ∧ t.chan = s.chan ∧ t.rst = s.rst ∧ t.bl = s.bl ∧ t.reqs = s.reqs ∧ t.refusals = s.refusals := by
  obtain ⟨t, r, ht⟩ := runPrims_fail (p := p) qs (beginRequest_answers op s h)
  have ha : chanAnsAt t 0 = .fail := by
    rw [r.chanAns, Nat.zero_add]; exact (chanAnsAt_congr rfl rfl _).trans hf
  have hd := stepPrim_done p t
  have hr : primRaise p t = some .transport := by
    rcases hp with ⟨rfl, -⟩ | ⟨rfl, -⟩ <;> simp [primRaise, ha, chanErr]
  have he : primEvent p t = [ev] := by
    rcases hp with ⟨rfl, rfl⟩ | ⟨rfl, rfl⟩ <;> simp [primEvent, ha]
  have ho : primOrient p t.orient = t.orient := by
    rcases hp with ⟨rfl, -⟩ | ⟨rfl, -⟩ <;> rfl
  have f := r.framed.trans hd.framed
  refine ⟨endRequest (.error .transport) (stepPrim p t).1,
    by rw [serveProgram_live _ _ hl, ht _ hr, finishRequest_some], ?_, ?_, f.life, f.chan, f.rst, f.bl, f.reqs, f.refusals⟩
  · simp [hd.trace, he, r.trace]
  · exact hd.orient.trans (ho.trans r.orient)

/-- A served micro-program leaves the lifetime's fields alone (R102) and only appends to the trace (R28). -/
theorem serveProgram_frame {op : OpName} {ps : List Prim} {s t : State} (h : serveProgram op ps s = .next t) :
    t.life = s.life ∧ t.chan = s.chan ∧ t.rst = s.rst ∧ t.bl = s.bl ∧ t.reqs = s.reqs ∧ t.refusals = s.refusals ∧
      s.trace <+: t.trace := by
  obtain ⟨-, rfl⟩ := serveProgram_next h
  have f := runPrims_framed ps (beginRequest op s)
  have g := runPrims_trace_grows ps (beginRequest op s)
  have g' : s.trace <+: (runPrims ps (beginRequest op s)).1.trace := (List.prefix_append _ _).trans g
  cases hr : runPrims ps (beginRequest op s) with
  | mk u r =>
    rw [hr] at f g'
    cases r with
    | none => exact ⟨f.life, f.chan, f.rst, f.bl, f.reqs, f.refusals, g'.trans (List.prefix_append _ _)⟩
    | some e => exact ⟨f.life, f.chan, f.rst, f.bl, f.reqs, f.refusals, g'.trans (List.prefix_append _ _)⟩

end Sys2Proof.Machine
end

