-- ==== Sys2Proof/Laws/PerInstr.lean ====
section
/-! SUPPORT. Statements made per request, one lemma a constructor: the frame of a request has the length R64 and R67
give its format and count. -/

namespace Sys2Proof.Laws.FrameLength

open Sys2Proof.Machine

/-- The encoded frame has the length of R67. -/
def Statement (i : Instr) : Prop :=
  i.wf = true → (encode i).length = frameLength (formatOf (opNameOf i)) (encode i)

theorem new (chan : Chan) (rst : Option RstLine) (bl : Option BlLine) : Statement (.new chan rst bl) := fun _ => rfl

theorem release : Statement .release := fun _ => rfl

theorem hardReset : Statement .hardReset := fun _ => rfl

theorem init : Statement .init := fun _ => rfl

theorem orientation : Statement .orientation := fun _ => rfl

theorem setOrientation (o : Orientation) : Statement (.setOrientation o) := fun _ => rfl

theorem setAddressWindow (sx sy ex ey : U16) : Statement (.setAddressWindow sx sy ex ey) := fun _ => rfl

theorem setPixel (x y color : U16) : Statement (.setPixel x y color) := fun _ => rfl

theorem setPixels (sx sy ex ey : U16) (colors : List U16) : Statement (.setPixels sx sy ex ey colors) := by
  intro h
  have h : colors.length < 2 ^ 32 := by simpa [Instr.wf, countFits] using h
  have hc : frameCount .fPixs (encode (.setPixels sx sy ex ey colors)) = colors.length := count32_of_be32 h
  show (encode (.setPixels sx sy ex ey colors)).length = 13 + 2 * frameCount .fPixs (encode (.setPixels sx sy ex ey colors))
  rw [hc]
  simp [encode, encodeBody]
  omega

theorem writeRaw (buf : List Byte) : Statement (.writeRaw buf) := by
  intro h
  have h : buf.length < 2 ^ 32 := by simpa [Instr.wf, countFits] using h
  have hc : frameCount .fRaw (encode (.writeRaw buf)) = buf.length := count32_of_be32 h
  show (encode (.writeRaw buf)).length = 5 + 1 * frameCount .fRaw (encode (.writeRaw buf))
  rw [hc]
  simp [encode, encodeBody]
  omega

end Sys2Proof.Laws.FrameLength
end

