-- ==== Sys2Proof/Laws/Step.lean ====
section
/-! SUPPORT. What an instruction and a step can do, said once: a request without I/O, or a micro-program begun, run and
ended (R16, R30), or nothing. -/

namespace Sys2Proof.Machine

/-- The micro-program of an instruction, its guards resolved (R16); `new`, `release` and `orientation` have none. -/
def progOf (i : Instr) (s : State) : Option (List Prim) :=
  match i with
  | .new _ _ _ => none
  | .release => none
  | .orientation => none
  | .hardReset => some (hrst Config.board s.rst)
  | .init => some (initProgram Config.board s.rst s.bl)
  | .setOrientation o => some (seto Config.board o)
  | .setAddressWindow sx sy ex ey => some (win Config.board sx sy ex ey)
  | .setPixel x y color => some (win Config.board x y x y ++ mw Config.board (be16 color))
  | .setPixels sx sy ex ey colors => some (win Config.board sx sy ex ey ++ mw Config.board (colorBytes colors))
  | .writeRaw buf => some (mw Config.board buf)

/-- An instruction with a micro-program serves it. -/
theorem exec_program {i : Instr} {s : State} {ps : List Prim} (h : progOf i s = some ps) :
    exec i s = serveProgram (opNameOf i) ps s := by
  cases i <;> first | (cases h; rfl) | cases h

/-- Everything an instruction that answers a next state can have done. -/
theorem exec_cases {i : Instr} {s t : State} (h : exec i s = .next t) :
    (∃ c r b, i = .new c r b ∧ s.life ≠ .live ∧ t = endRequest .ok (construct c r b (beginRequest .new s))) ∨
    (i = .release ∧ s.life = .live ∧
      t = endRequest (.okHandles s.chan s.rst s.bl) { beginRequest .release s with life := .released }) ∨
    (i = .orientation ∧ s.life = .live ∧ t = endRequest (.okOrientation s.orient) (beginRequest .orientation s)) ∨
    (∃ ps, progOf i s = some ps ∧ s.life = .live ∧
      t = finishRequest (runPrims ps (beginRequest (opNameOf i) s))) := by
  cases hp : progOf i s with
  | some ps =>
    rw [exec_program hp] at h
    obtain ⟨hl, ht⟩ := serveProgram_next h
    exact .inr (.inr (.inr ⟨ps, rfl, hl, ht⟩))
  | none =>
    cases i with
    | new c r b =>
      simp only [exec, execNew] at h
      split at h
      · cases h
      · rename_i hl
        cases h
        exact .inl ⟨c, r, b, rfl, hl, rfl⟩
    | release =>
      simp only [exec, execRelease] at h
      split at h
      · rename_i hl
        cases h
        exact .inr (.inl ⟨rfl, hl, rfl⟩)
      · cases h
    | orientation =>
      simp only [exec, execOrientation] at h
      split at h
      · rename_i hl
        cases h
        exact .inr (.inr (.inl ⟨rfl, hl, rfl⟩))
      · cases h
    | hardReset => cases hp
    | init => cases hp
    | setOrientation _ => cases hp
    | setAddressWindow _ _ _ _ => cases hp
    | setPixel _ _ _ => cases hp
    | setPixels _ _ _ _ _ => cases hp
    | writeRaw _ => cases hp

/-- Everything a step that answers a next state can have done. -/
theorem step_cases {s t : State} (h : step s = .next t) :
    (s.reqs = [] ∧ t = s) ∨
    (∃ r rest i, s.reqs = r :: rest ∧ decode r.ports r.frame = .ok i ∧ exec i { s with reqs := rest } = .next t) := by
  cases hq : s.reqs with
  | nil =>
    unfold step fetch at h
    rw [hq] at h
    cases h
    exact .inl ⟨rfl, rfl⟩
  | cons r rest =>
    unfold step fetch at h
    rw [hq] at h
    cases hd : decode r.ports r.frame with
    | ok i =>
      simp only [hd] at h
      exact .inr ⟨r, rest, i, rfl, hd, h⟩
    | error e =>
      simp only [hd] at h
      cases h

/-- The end of a request in one form: the result and the state it ends in. -/
theorem finishRequest_eq (x : State × Option Err) :
    finishRequest x = endRequest (match x.2 with | none => .ok | some e => .error e) x.1 := by
  obtain ⟨s, r⟩ := x
  cases r <;> rfl

end Sys2Proof.Machine
end

