-- ==== Sys2Proof/Laws/Trace.lean ====
section
/-! SUPPORT. How each reading of the trace goes over an event and over a concatenation. -/

namespace Sys2Proof.Machine

/-! The channel projection (R28). -/

@[simp] theorem chanEvents_nil : chanEvents [] = [] := rfl

@[simp] theorem chanEvents_beginEv (op : OpName) (T : List Ev) : chanEvents (.beginEv op :: T) = chanEvents T := rfl

@[simp] theorem chanEvents_cmdEv (b : Byte) (a : ChanAns) (T : List Ev) : chanEvents (.cmdEv b a :: T) = .cmdEv b a :: chanEvents T := rfl

@[simp] theorem chanEvents_dataEv (bs : List Byte) (a : ChanAns) (T : List Ev) : chanEvents (.dataEv bs a :: T) = .dataEv bs a :: chanEvents T := rfl

@[simp] theorem chanEvents_pinEv (l : Line) (lv : Level) (a : PinAns) (T : List Ev) : chanEvents (.pinEv l lv a :: T) = chanEvents T := rfl

@[simp] theorem chanEvents_delayEv (us : Nat) (T : List Ev) : chanEvents (.delayEv us :: T) = chanEvents T := rfl

@[simp] theorem chanEvents_endEv (r : Result) (T : List Ev) : chanEvents (.endEv r :: T) = chanEvents T := rfl

@[simp] theorem chanEvents_append (T U : List Ev) : chanEvents (T ++ U) = chanEvents T ++ chanEvents U := by
  simp [chanEvents]

/-! The channel's bytes. -/

@[simp] theorem channelBytes_nil : channelBytes [] = [] := rfl

@[simp] theorem channelBytes_beginEv (op : OpName) (T : List Ev) : channelBytes (.beginEv op :: T) = channelBytes T := rfl

@[simp] theorem channelBytes_cmdEv (b : Byte) (a : ChanAns) (T : List Ev) : channelBytes (.cmdEv b a :: T) = b :: channelBytes T := rfl

@[simp] theorem channelBytes_dataEv (bs : List Byte) (a : ChanAns) (T : List Ev) : channelBytes (.dataEv bs a :: T) = bs ++ channelBytes T := rfl

@[simp] theorem channelBytes_pinEv (l : Line) (lv : Level) (a : PinAns) (T : List Ev) : channelBytes (.pinEv l lv a :: T) = channelBytes T := rfl

@[simp] theorem channelBytes_delayEv (us : Nat) (T : List Ev) : channelBytes (.delayEv us :: T) = channelBytes T := rfl

@[simp] theorem channelBytes_endEv (r : Result) (T : List Ev) : channelBytes (.endEv r :: T) = channelBytes T := rfl

@[simp] theorem channelBytes_append (T U : List Ev) : channelBytes (T ++ U) = channelBytes T ++ channelBytes U := by
  simp [channelBytes]

/-! The delays (R241). -/

@[simp] theorem delaysOf_nil : delaysOf [] = [] := rfl

@[simp] theorem delaysOf_beginEv (op : OpName) (T : List Ev) : delaysOf (.beginEv op :: T) = delaysOf T := rfl

@[simp] theorem delaysOf_cmdEv (b : Byte) (a : ChanAns) (T : List Ev) : delaysOf (.cmdEv b a :: T) = delaysOf T := rfl

@[simp] theorem delaysOf_dataEv (bs : List Byte) (a : ChanAns) (T : List Ev) : delaysOf (.dataEv bs a :: T) = delaysOf T := rfl

@[simp] theorem delaysOf_pinEv (l : Line) (lv : Level) (a : PinAns) (T : List Ev) : delaysOf (.pinEv l lv a :: T) = delaysOf T := rfl

@[simp] theorem delaysOf_delayEv (us : Nat) (T : List Ev) : delaysOf (.delayEv us :: T) = us :: delaysOf T := rfl

@[simp] theorem delaysOf_endEv (r : Result) (T : List Ev) : delaysOf (.endEv r :: T) = delaysOf T := rfl

@[simp] theorem delaysOf_append (T U : List Ev) : delaysOf (T ++ U) = delaysOf T ++ delaysOf U := by
  simp [delaysOf]

/-! The results (R201). -/

@[simp] theorem resultsOf_nil : resultsOf [] = [] := rfl

@[simp] theorem resultsOf_beginEv (op : OpName) (T : List Ev) : resultsOf (.beginEv op :: T) = resultsOf T := rfl

@[simp] theorem resultsOf_cmdEv (b : Byte) (a : ChanAns) (T : List Ev) : resultsOf (.cmdEv b a :: T) = resultsOf T := rfl

@[simp] theorem resultsOf_dataEv (bs : List Byte) (a : ChanAns) (T : List Ev) : resultsOf (.dataEv bs a :: T) = resultsOf T := rfl

@[simp] theorem resultsOf_pinEv (l : Line) (lv : Level) (a : PinAns) (T : List Ev) : resultsOf (.pinEv l lv a :: T) = resultsOf T := rfl

@[simp] theorem resultsOf_delayEv (us : Nat) (T : List Ev) : resultsOf (.delayEv us :: T) = resultsOf T := rfl

@[simp] theorem resultsOf_endEv (r : Result) (T : List Ev) : resultsOf (.endEv r :: T) = r :: resultsOf T := rfl

@[simp] theorem resultsOf_append (T U : List Ev) : resultsOf (T ++ U) = resultsOf T ++ resultsOf U := by
  simp [resultsOf]

/-! The command context (R35) and line levels (R23). -/

theorem ctx_append (T U : List Ev) : ctx (T ++ U) = (ctx U).or (ctx T) := by
  simp [ctx, List.filterMap_append, List.getLast?_append]

theorem lineLevel_append (line : Line) (T U : List Ev) :
    lineLevel line (T ++ U) = (lineLevel line U).or (lineLevel line T) := by
  simp [lineLevel, List.filterMap_append, List.getLast?_append]

/-! What a claim calls the new events of a request. -/

theorem newEvents_of_append {s t : State} {evs : List Ev} (h : t.trace = s.trace ++ evs) : newEvents s t = evs := by
  simp [newEvents, h]

end Sys2Proof.Machine
end

