-- ==== Sys2Proof/Tests/Slice0.lean ====
section
/-! SUPPORT. Tests: the smoke of WellFormed, decoding and emission vectors of 95_test_vectors.md, and for every obligation
with hypotheses a witness of each clause. Expected values come from the spec. -/

open Sys2Proof Sys2Proof.Machine

namespace Sys2Proof.Tests

/-! ### Small states -/

/-- `n` accepted bursts. -/
def oks (n : Nat) : List ChanAns := List.replicate n .ok

/-- `n` accepted bursts and then a failed one. -/
def failAt (n : Nat) : List ChanAns := oks n ++ [.fail]

/-- `n` successful sets and then a failed one. -/
def pinFailAt (n : Nat) (e : PinErr) : List PinAns := List.replicate n .ok ++ [.fail e]

/-- A Live block without lines, the channel answering as listed. -/
def bare (answers : List ChanAns) : State := { State.reset with chanIn := answers }

/-- A Live block with both lines, everything answering as listed. -/
def wired (answers : List ChanAns) (rst bl : List PinAns) : State :=
  { State.reset with rst := some .first, bl := some .first, chanIn := answers, rstIn := rst, blIn := bl }

/-- A Live block with a backlight line alone. -/
def lit (bl : List PinAns) : State := { State.reset with bl := some .first, blIn := bl }

/-- A block with both lines on which `init` meets no failure. -/
def ready : State := wired (oks 30) [.ok, .ok, .ok] [.ok, .ok]

/-- A released block. -/
def gone : State := { State.reset with life := .released }

/-- Resource ports with a handle each. -/
def ports : Ports := ⟨.first, .first, .first⟩

/-- A block with one request waiting. -/
def asked (s : State) (frame : List Byte) : State := { s with reqs := [⟨frame, ports⟩] }

/-- The events a micro-program adds on the DEFAULT_CFG of 95_test_vectors.md. -/
def chanOf (op : OpName) (ps : List Prim) (s : State) : List Ev :=
  chanEvents (newEvents s (finishRequest (runPrims ps (beginRequest op s))))

/-- All the events a micro-program adds. -/
def eventsOf (op : OpName) (ps : List Prim) (s : State) : List Ev :=
  newEvents s (finishRequest (runPrims ps (beginRequest op s)))

/-! ### WellFormed -/

theorem test_wf_admits : (Instr.setPixels 0 0 0 0 [1, 2]).wf = true ∧ (Instr.writeRaw []).wf = true := by decide

/-- A count of 2^32 colours does not fit its four bytes (R65). -/
theorem test_wf_refuses_long_colors : (Instr.setPixels 0 0 0 0 (List.replicate (2 ^ 32) 0)).wf = false := by
  simp only [Instr.wf, countFits, List.length_replicate, Nat.lt_irrefl, decide_false]

/-- A count of 2^32 bytes does not fit its four bytes (R65). -/
theorem test_wf_refuses_long_buffer : (Instr.writeRaw (List.replicate (2 ^ 32) 0)).wf = false := by
  simp only [Instr.wf, countFits, List.length_replicate, Nat.lt_irrefl, decide_false]

/-! ### Decoding: words written out bit by bit from R63 and R64 -/

theorem test_decode_new (p : Ports) :
    decode p [0b00000001, 0b00000010] = .ok (.new p.chan none (some p.bl)) := by rfl

theorem test_decode_new_rst (p : Ports) :
    decode p [0b00000001, 0b00000001] = .ok (.new p.chan (some p.rst) none) := by rfl

theorem test_decode_release : decode ports [0b00000010] = .ok .release := by rfl

theorem test_decode_hardReset : decode ports [0b00000011] = .ok .hardReset := by rfl

theorem test_decode_init : decode ports [0b00000100] = .ok .init := by rfl

theorem test_decode_orientation : decode ports [0b00000101] = .ok .orientation := by rfl

theorem test_decode_setOrientation : decode ports [0b00000110, 0b00000010] = .ok (.setOrientation .orientC0) := by rfl

theorem test_decode_setAddressWindow :
    decode ports [0b00000111, 0b00000001, 0b00000010, 0b00000011, 0b00000100, 0b00000101, 0b00000110, 0b00000111, 0b00001000]
      = .ok (.setAddressWindow 0x0102 0x0304 0x0506 0x0708) := by rfl

theorem test_decode_setPixel :
    decode ports [0b00001000, 0b00000000, 0b00000001, 0b00000000, 0b00000010, 0b11111000, 0b00000000]
      = .ok (.setPixel 1 2 0xF800) := by rfl

theorem test_decode_setPixels :
    decode ports [0b00001001, 0b00000000, 0b00001010, 0b00000000, 0b00001010, 0b00000000, 0b00001011, 0b00000000,
      0b00001010, 0b00000000, 0b00000000, 0b00000000, 0b00000001, 0b10101011, 0b11001101]
      = .ok (.setPixels 10 10 11 10 [0xABCD]) := by
  simp [decode, opOfSel, decodeBody, decodePixs, count32, colorsOf, u16]

theorem test_decode_writeRaw :
    decode ports [0b00001010, 0b00000000, 0b00000000, 0b00000000, 0b00000010, 0b11111100, 0b00000001]
      = .ok (.writeRaw [0xFC, 0x01]) := by
  simp [decode, opOfSel, decodeBody, decodeRaw, count32]

/-- L2-E10, L2-E11 and the top selector. -/
theorem test_decode_reserved_selectors :
    decode ports [0x00] = .error .reservedSelector ∧ decode ports [0x0B] = .error .reservedSelector ∧
    decode ports [0xFF, 0x00] = .error .reservedSelector := ⟨rfl, rfl, rfl⟩

/-- L2-E12, L2-E13. -/
theorem test_decode_reserved_bits :
    decode ports [0x06, 0x04] = .error .reservedBits ∧ decode ports [0x01, 0x04] = .error .reservedBits := ⟨rfl, rfl⟩

/-- L2-E14, L2-E15, and an empty frame (log entry 12). -/
theorem test_decode_wrong_length :
    decode ports [0x07, 0x00, 0x01] = .error .wrongLength ∧
    decode ports [0x0A, 0x00, 0x00, 0x00, 0x02, 0xFF] = .error .wrongLength ∧
    decode ports [] = .error .wrongLength := by
  refine ⟨rfl, ?_, rfl⟩
  simp [decode, opOfSel, decodeBody, decodeRaw, count32]

/-- The rows of the opcode table, operand bytes zero (log entry 15). -/
theorem test_tableWords :
    decodeTableWord 16 0x0001 = some (.new .first none none) ∧ decodeTableWord 8 0x02 = some .release ∧
    decodeTableWord 8 0x03 = some .hardReset ∧ decodeTableWord 8 0x04 = some .init ∧
    decodeTableWord 8 0x05 = some .orientation ∧ decodeTableWord 8 0x06 = some (.setOrientation .orient00) ∧
    decodeTableWord 8 0x07 = some (.setAddressWindow 0 0 0 0) ∧ decodeTableWord 8 0x08 = some (.setPixel 0 0 0) ∧
    decodeTableWord 8 0x09 = some (.setPixels 0 0 0 0 []) ∧ decodeTableWord 8 0x0A = some (.writeRaw []) := by decide

/-- The second byte of the frame is bits 15..8. -/
theorem test_tableWord_second_byte : decodeTableWord 16 0x0106 = some (.setOrientation .orient60) ∧
    decodeTableWord 72 0x080706050403020107 = some (.setAddressWindow 0x0102 0x0304 0x0506 0x0708) := by decide

/-! ### The step -/

/-- A table word runs as the first request after reset. -/
theorem test_first_step_orientation :
    ∃ t, step (State.reset.withFetchWord 8 0x05) = .next t ∧
      newEvents State.reset t = [.beginEv .orientation, .endEv (.okOrientation .orient00)] := ⟨_, rfl, rfl⟩

/-- `new` while Live is refused (L2-L2), and runs before the first `new` (L2-L1). -/
theorem test_first_step_new :
    step (State.reset.withFetchWord 16 0x0001) = .refused .resourceOwned ∧
    ∃ t, step (State.absent.withFetchWord 16 0x0001) = .next t ∧ t.life = .live ∧
      t.trace = [.beginEv .new, .endEv .ok] := ⟨rfl, _, rfl, rfl, rfl⟩

/-- L2-L4, L2-L6: refused, no event, the mark kept (P4). -/
theorem test_refused_not_live :
    (serve (asked gone [0x08, 0, 0, 0, 0, 0, 0])).refusals = [.notLive] ∧
    (serve (asked gone [0x08, 0, 0, 0, 0, 0, 0])).trace = gone.trace ∧
    step (asked State.absent [0x04]) = .refused .notLive := ⟨rfl, rfl, rfl⟩

/-- L2-L5: `new` after `release` starts at the default orientation. -/
theorem test_new_after_release :
    ∃ t, exec (.new .first none none) { gone with orient := .orientC0 } = .next t ∧ t.life = .live ∧ t.orient = .orient00 :=
  ⟨_, rfl, rfl, rfl⟩

/-! ### tft_init_sequencer on DEFAULT_CFG -/

/-- L2-I1. -/
theorem test_I1 : eventsOf .hardReset (hrst defaultCfg none) State.reset = [.beginEv .hardReset, .endEv .ok] := by rfl

/-- L2-I3: the 43 events, in order. -/
theorem test_I3 : eventsOf .init (initProgram defaultCfg (some .first) (some .first)) ready =
    [.beginEv .init,
      .pinEv .rst .high .ok, .delayEv 100, .pinEv .rst .low .ok, .delayEv 100, .pinEv .rst .high .ok, .delayEv 100,
      .pinEv .bl .low .ok, .delayEv 10000, .pinEv .bl .high .ok,
      .cmdEv 0x01 .ok, .delayEv 150000, .cmdEv 0x11 .ok, .delayEv 10000,
      .cmdEv 0xE0 .ok,
      .dataEv [0x00, 0x03, 0x09, 0x08, 0x16, 0x0A, 0x3F, 0x78, 0x4C, 0x09, 0x0A, 0x08, 0x16, 0x1A, 0x0F] .ok,
      .cmdEv 0xE1 .ok,
      .dataEv [0x00, 0x16, 0x19, 0x03, 0x0F, 0x05, 0x32, 0x45, 0x46, 0x04, 0x0E, 0x0D, 0x35, 0x37, 0x0F] .ok,
      .cmdEv 0xC0 .ok, .dataEv [0x17, 0x15] .ok, .cmdEv 0xC1 .ok, .dataEv [0x41] .ok,
      .cmdEv 0xC5 .ok, .dataEv [0x00, 0x12, 0x80] .ok, .cmdEv 0x36 .ok, .dataEv [0x00] .ok,
      .cmdEv 0x3A .ok, .dataEv [0x66] .ok, .cmdEv 0xB0 .ok, .dataEv [0x00] .ok, .cmdEv 0xB1 .ok, .dataEv [0xA0] .ok,
      .cmdEv 0xB4 .ok, .dataEv [0x02] .ok, .cmdEv 0xB6 .ok, .dataEv [0x02, 0x02, 0x3B] .ok,
      .cmdEv 0xB7 .ok, .dataEv [0xC6] .ok, .cmdEv 0xF7 .ok, .dataEv [0xA9, 0x51, 0x2C, 0x82] .ok,
      .cmdEv 0x11 .ok, .delayEv 10000, .cmdEv 0x29 .ok, .delayEv 10000, .endEv .ok] := by rfl

/-- L2-I3: 66 channel bytes and 190300 us in all. -/
theorem test_I3_counts :
    (channelBytes (eventsOf .init (initProgram defaultCfg (some .first) (some .first)) ready)).length = 66 ∧
    (delaysOf (eventsOf .init (initProgram defaultCfg (some .first) (some .first)) ready)).sum = 190300 := ⟨rfl, rfl⟩

/-- L2-I4: the second set fails. -/
theorem test_I4 : eventsOf .hardReset (hrst defaultCfg (some .first)) (wired [] (pinFailAt 1 .first) []) =
    [.beginEv .hardReset, .pinEv .rst .high .ok, .delayEv 100, .pinEv .rst .low (.fail .first), .endEv (.error (.pin .first))] := by
  rfl

/-- L2-I7: burst 15 fails, the cache is the default under `SetDefault`, and as it was under `Keep`. -/
theorem test_I7 :
    (runPrims (initProgram defaultCfg none none) { bare (failAt 14) with orient := .orientC0 }).1.orient = .orient00 ∧
    (runPrims (initProgram { defaultCfg with cachePolicy := .keep } none none)
      { bare (failAt 14) with orient := .orientC0 }).1.orient = .orientC0 := ⟨rfl, rfl⟩

/-- L2-I6: burst 14 fails, the cache is as it was. -/
theorem test_I6 :
    (runPrims (initProgram defaultCfg none none) { bare (failAt 13) with orient := .orientC0 }).1.orient = .orientC0 := rfl

/-- L2-I9: the first backlight set fails. -/
theorem test_I9 : eventsOf .init (initProgram defaultCfg none (some .first)) (lit [.fail .first]) =
    [.beginEv .init, .pinEv .bl .low (.fail .first), .endEv (.error (.pin .first))] := rfl

/-- L2-O2 to L2-O4: the bytes of the variants. -/
theorem test_O_patterns :
    [.orient60, .orientC0, .orientA0].map (fun o => chanOf .setOrientation (seto defaultCfg o) (bare (oks 2))) =
      [[.cmdEv 0x36 .ok, .dataEv [0x60] .ok], [.cmdEv 0x36 .ok, .dataEv [0xC0] .ok],
        [.cmdEv 0x36 .ok, .dataEv [0xA0] .ok]] := rfl

/-- L2-O6: the data burst fails. -/
theorem test_O6 :
    (runPrims (seto defaultCfg .orientA0) { bare (failAt 1) with orient := .orient60 }).1.orient = .orient60 ∧
    (runPrims (seto defaultCfg .orientA0) (bare (failAt 1))).2 = some .transport := ⟨rfl, rfl⟩

/-- L2-E16: the response `00 03`. -/
theorem test_E16 : ∃ t, exec .orientation { State.reset with orient := .orientA0 } = .next t ∧
    (responsesOf (newEvents State.reset t)).map Response.bytes = [[0x00, 0x03]] := ⟨_, rfl, rfl⟩

/-! ### address_window_encoder and pixel_stream_mux on DEFAULT_CFG -/

/-- L2-W5. -/
theorem test_W5 : chanOf .setAddressWindow (win defaultCfg 0x1234 0xABCD 0x00FF 0xFF00) (bare (oks 6)) =
    [.cmdEv 0x2A .ok, .dataEv [0x12, 0x34] .ok, .dataEv [0x00, 0xFF] .ok,
      .cmdEv 0x2B .ok, .dataEv [0xAB, 0xCD] .ok, .dataEv [0xFF, 0x00] .ok] := rfl

/-- L2-W6: the fourth burst fails. -/
theorem test_W6 : chanOf .setAddressWindow (win defaultCfg 1 2 3 4) (bare (failAt 3)) =
    [.cmdEv 0x2A .ok, .dataEv [0x00, 0x01] .ok, .dataEv [0x00, 0x03] .ok, .cmdEv 0x2B .fail] := rfl

/-- L2-P1. -/
theorem test_P1 : chanOf .setPixel (win defaultCfg 0xFFFF 0 0xFFFF 0 ++ mw defaultCfg (be16 0xFFFF)) (bare (oks 8)) =
    [.cmdEv 0x2A .ok, .dataEv [0xFF, 0xFF] .ok, .dataEv [0xFF, 0xFF] .ok,
      .cmdEv 0x2B .ok, .dataEv [0x00, 0x00] .ok, .dataEv [0x00, 0x00] .ok,
      .cmdEv 0x2C .ok, .dataEv [0xFF, 0xFF] .ok] := rfl

/-- L2-P11: the colour burst fails. -/
theorem test_P11 :
    chanOf .setPixels (win defaultCfg 0 0 1 0 ++ mw defaultCfg (colorBytes [0xAAAA, 0x5555])) (bare (failAt 7)) =
    [.cmdEv 0x2A .ok, .dataEv [0x00, 0x00] .ok, .dataEv [0x00, 0x01] .ok,
      .cmdEv 0x2B .ok, .dataEv [0x00, 0x00] .ok, .dataEv [0x00, 0x00] .ok,
      .cmdEv 0x2C .ok, .dataEv [0xAA, 0xAA, 0x55, 0x55] .fail] := rfl

/-- L2-P8: an empty buffer is still one burst. -/
theorem test_P8 : chanOf .writeRaw (mw defaultCfg []) (bare (oks 2)) = [.cmdEv 0x2C .ok, .dataEv [] .ok] := rfl

/-- L2-W2, L2-W4: pixel counts. -/
theorem test_pixelCounts : pixelCount 0 0 0xFFFF 0xFFFF = some (2 ^ 32) ∧ pixelCount 0 0 479 319 = some 153600 ∧
    pixelCount 100 50 10 5 = none := by decide

/-! ### Assembler (R75, R76), opcodes (R8) -/

/-- The frames of L2-E5 and L2-E3, and an out-of-range coordinate. -/
theorem test_assemble :
    assemble ports ["set_pixel 1, 2, 0xF800 ; red", "set_orientation ORIENT_60"] =
      some [⟨[0x08, 0x00, 0x01, 0x00, 0x02, 0xF8, 0x00], default⟩, ⟨[0x06, 0x01], default⟩] ∧
    assembleLine ports "set_pixel 65536, 0, 0" = none := ⟨rfl, rfl⟩

/-- `new` with its lines, and a comment alone. -/
theorem test_assemble_new :
    assembleLine ports "new rst, bl" = some [.new .first (some .first) (some .first)] ∧ assembleLine ports "; nothing" = some [] :=
  ⟨rfl, rfl⟩

/-- DEFAULT_CFG meets the premise `OPC_DISTINCT`. -/
theorem test_default_opcodes_distinct : OpcDistinct defaultCfg := by
  intro a b h
  cases a <;> cases b <;> first | rfl | (revert h; decide)

/-- The deliveries of L2-P11's failed burst (R48): any beginning of its bytes. -/
theorem test_deliveries : deliveries [.dataEv [0xAA, 0x55] .fail] =
    [[], [.data 0xAA], [.data 0xAA, .data 0x55]] := rfl

/-! ### Witnesses: a concrete case for the hypotheses of every obligation that has some -/

/-- TypedFormAndFrameAgree, both directions. -/
theorem test_witness_TypedFormAndFrameAgree :
    (Instr.setPixels 1 2 3 4 [5]).wf = true ∧ decode ports [0x06, 0x03] = .ok (.setOrientation .orientA0) := ⟨rfl, rfl⟩

/-- IllegalFramesAreRefused: the boundary selectors and reserved bits of R66. -/
theorem test_witness_IllegalFrames_reserved :
    (∀ sel ∈ [(0x00 : Byte), 0x0B, 0xFF], (asked State.reset [sel]).reqs = [⟨[sel], ports⟩] ∧
      (sel.toNat = 0x00 ∨ 0x0B ≤ sel.toNat)) ∧
    (∀ b ∈ [(0x04 : Byte), 0x80], (asked State.reset [0x01, b]).reqs = [⟨[0x01, b], ports⟩] ∧ 4 ≤ b.toNat) ∧
    (∀ b ∈ [(0x04 : Byte), 0xFF], (asked State.reset [0x06, b]).reqs = [⟨[0x06, b], ports⟩] ∧ 4 ≤ b.toNat) := by decide

/-- IllegalFramesAreRefused: an empty frame, a window one byte short and a raw frame one byte short of its count. -/
theorem test_witness_IllegalFrames_length :
    (asked State.reset []).reqs = [⟨[], ports⟩] ∧
    opOfSel 0x07 = some .setAddressWindow ∧
    ([0x07, 1, 2, 3, 4, 5, 6, 7] : List Byte).length ≠ frameLength .fWin [0x07, 1, 2, 3, 4, 5, 6, 7] ∧
    opOfSel 0x0A = some .writeRaw ∧
    ([0x0A, 0, 0, 0, 2, 0xFF] : List Byte).length ≠ frameLength .fRaw [0x0A, 0, 0, 0, 2, 0xFF] := by decide

/-- OperandFieldsAreBigEndian, its second clause. -/
theorem test_witness_OperandFields :
    decode ports (0x09 :: ([0, 1, 0, 2, 0, 3, 0, 4] ++ [0, 0, 0, 1] ++ [0x12, 0x34]))
      = .ok (.setPixels 1 2 3 4 [0x1234]) := by
  simp [decode, opOfSel, decodeBody, decodePixs, count32, colorsOf, u16]

/-- StepRunsTheNextRequest and IdleBlockDoesNothing. -/
theorem test_witness_Step :
    (asked State.reset [0x05]).reqs = ⟨[0x05], ports⟩ :: [] ∧ decode ports [0x05] = .ok .orientation ∧
    State.reset.reqs = [] := ⟨rfl, rfl, rfl⟩

/-- NewConstructsTheDriver, ReleaseHandsBackTheHandles, LifecycleLaw and the refusals of the other operations. -/
theorem test_witness_life :
    State.absent.life ≠ .live ∧ gone.life ≠ .live ∧ State.reset.life = .live ∧
    (∀ c r b, Instr.hardReset ≠ .new c r b) ∧ (∃ t, exec .release State.reset = .next t) ∧
    (∃ t, exec (.new .first none none) State.absent = .next t) ∧ ∃ t, exec .orientation State.reset = .next t :=
  ⟨nofun, nofun, rfl, nofun, ⟨_, rfl⟩, ⟨_, rfl⟩, _, rfl⟩

/-- ReleaseReturnsWhatNewWasGiven, with a failing request between. -/
theorem test_witness_ReleaseReturns :
    ∃ t u, exec (.new .first (some .first) none) { State.absent with chanIn := failAt 0 } = .next t ∧
      execAll [.orientation, .writeRaw [1]] t = .next u ∧ Instr.release ∉ [Instr.orientation, .writeRaw [1]] :=
  ⟨_, _, rfl, rfl, by decide⟩

/-- HardResetPulsesTheLine: without and with a line. -/
theorem test_witness_HardReset : State.reset.life = .live ∧ State.reset.rst = none ∧ ready.life = .live ∧
    ready.rst ≠ none := ⟨rfl, rfl, rfl, nofun⟩

/-- HardResetLineLevels: no failure, and a failure at each of the three sets. -/
theorem test_witness_HardResetLineLevels :
    RstOk ready 3 ∧ rstAnsAt (wired [] (pinFailAt 0 .first) []) 0 = .fail .first ∧
    (RstOk (wired [] (pinFailAt 1 .first) []) 1 ∧ rstAnsAt (wired [] (pinFailAt 1 .first) []) 1 = .fail .first) ∧
    (RstOk (wired [] (pinFailAt 2 .first) []) 2 ∧ rstAnsAt (wired [] (pinFailAt 2 .first) []) 2 = .fail .first) := by
  refine ⟨?_, rfl, ⟨?_, rfl⟩, ?_, rfl⟩ <;> · unfold RstOk; decide

/-- The successful `init` of InitRunsItsProgram, InitChannelProjection, InitEventCounts and InitLeavesTheLinesHigh, with
both lines and with none; the hypotheses of InitCachePolicy. -/
theorem test_witness_Init :
    (ready.life = .live ∧ InitPinsOk ready ∧ ChanOk ready 30 ∧ ChanOk ready 14) ∧
    ((bare (oks 30)).life = .live ∧ InitPinsOk (bare (oks 30)) ∧ ChanOk (bare (oks 30)) 30) := by
  refine ⟨⟨rfl, ⟨fun _ => ?_, fun _ => ?_⟩, ?_, ?_⟩, rfl, ⟨nofun, nofun⟩, ?_⟩
  · unfold RstOk; decide
  · unfold BlOk; decide
  · unfold ChanOk; decide
  · unfold ChanOk; decide
  · unfold ChanOk; decide

/-- InitCachePolicy: an `init` whose 14th burst fails. -/
theorem test_witness_InitCachePolicy : ¬ (InitPinsOk (bare (failAt 13)) ∧ ChanOk (bare (failAt 13)) 14) := by
  rintro ⟨-, h⟩
  exact absurd (h 13 (by omega)) (by decide)

/-- InitFailurePosition: the first, 14th, 15th and last burst. -/
theorem test_witness_InitFailurePosition :
    InitPinsOk (bare (failAt 0)) ∧ FirstFail (bare (failAt 0)) 0 ∧ FirstFail (bare (failAt 13)) 13 ∧
    FirstFail (bare (failAt 14)) 14 ∧ FirstFail (bare (failAt 29)) 29 := by
  refine ⟨⟨nofun, nofun⟩, ?_, ?_, ?_, ?_⟩ <;> · unfold FirstFail ChanOk; decide

/-- InitFailurePosition: the first and the last set of the reset line fail. -/
theorem test_witness_InitPulseFails :
    ((wired [] (pinFailAt 0 .first) []).rst.isSome = true ∧ RstOk (wired [] (pinFailAt 0 .first) []) 0 ∧
      rstAnsAt (wired [] (pinFailAt 0 .first) []) 0 = .fail .first) ∧
    RstOk (wired [] (pinFailAt 2 .first) []) 2 ∧ rstAnsAt (wired [] (pinFailAt 2 .first) []) 2 = .fail .first := by
  refine ⟨⟨rfl, ?_, rfl⟩, ?_, rfl⟩ <;> · unfold RstOk; decide

/-- InitFailurePosition: the first set of the backlight line fails without a reset line, the last with one. -/
theorem test_witness_InitSettleFails :
    (((lit (pinFailAt 0 .first)).rst.isSome = true → RstOk (lit (pinFailAt 0 .first)) 3) ∧
      (lit (pinFailAt 0 .first)).bl.isSome = true ∧ BlOk (lit (pinFailAt 0 .first)) 0 ∧
      blAnsAt (lit (pinFailAt 0 .first)) 0 = .fail .first) ∧
    RstOk (wired [] [.ok, .ok, .ok] (pinFailAt 1 .first)) 3 ∧ BlOk (wired [] [.ok, .ok, .ok] (pinFailAt 1 .first)) 1 ∧
    blAnsAt (wired [] [.ok, .ok, .ok] (pinFailAt 1 .first)) 1 = .fail .first := by
  refine ⟨⟨nofun, rfl, ?_, rfl⟩, ?_, ?_, rfl⟩
  · unfold BlOk; decide
  · unfold RstOk; decide
  · unfold BlOk; decide

/-- InitFailurePosition: `InitPinFails` by each line. -/
theorem test_witness_InitPinFails :
    InitPinFails (wired [] (pinFailAt 2 .first) []) .first ∧
    InitPinFails (wired [] [.ok, .ok, .ok] (pinFailAt 1 .first)) .first := by
  refine ⟨.inl ⟨rfl, 2, by decide, ?_, rfl⟩, .inr ⟨fun _ => ?_, rfl, 1, by decide, ?_, rfl⟩⟩
  · unfold RstOk; decide
  · unfold RstOk; decide
  · unfold BlOk; decide

/-- SetOrientationLaw: its three cases. -/
theorem test_witness_SetOrientationLaw :
    ChanOk (bare (oks 2)) 2 ∧ chanAnsAt (bare (failAt 0)) 0 = .fail ∧ FirstFail (bare (failAt 1)) 1 := by
  refine ⟨?_, rfl, ?_⟩ <;> · (try unfold FirstFail); unfold ChanOk; decide

/-- WindowEmissionLaw, SetPixelEmission, SetPixelsEmission, WriteRawEmission and TypedEmissionLaw: every answer OK, and a
failure of the first and of the last burst. -/
theorem test_witness_emission :
    ChanOk (bare (oks 8)) 6 ∧ ChanOk (bare (oks 8)) 8 ∧ ChanOk (bare (oks 8)) 2 ∧
    FirstFail (bare (failAt 0)) 0 ∧ FirstFail (bare (failAt 1)) 1 ∧ FirstFail (bare (failAt 5)) 5 ∧
    FirstFail (bare (failAt 7)) 7 := by
  refine ⟨?_, ?_, ?_, ?_, ?_, ?_, ?_⟩ <;> · (try unfold FirstFail); unfold ChanOk; decide

/-- CacheAgreesIsKept, LegalTraceIsKept and TraceOnlyGrows: a step that writes the orientation. -/
theorem test_witness_kept :
    CacheAgrees (asked (bare (oks 2)) [0x06, 0x01]) ∧ LegalTrace (asked (bare (oks 2)) [0x06, 0x01]).trace ∧
    ∃ t, step (asked (bare (oks 2)) [0x06, 0x01]) = .next t ∧ t.orient = .orient60 :=
  ⟨rfl, rfl, _, rfl, rfl⟩

/-- OneAllowedResult, CommandsPerOperation and the frames: each operation on the channel answers a next state, here with
no error. -/
theorem test_witness_next :
    (∃ t, exec (.setAddressWindow 1 2 3 4) (bare (oks 6)) = .next t ∧
      ∀ e, resultsOf (newEvents (bare (oks 6)) t) ≠ [.error e]) ∧
    (∃ t, exec (.setPixel 1 2 3) (bare (oks 8)) = .next t) ∧
    (∃ t, exec (.setPixels 1 2 3 4 [5]) (bare (oks 8)) = .next t) ∧
    (∃ t, exec (.writeRaw [1]) (bare (oks 2)) = .next t) ∧
    (∃ t, exec (.setOrientation .orientC0) (bare (oks 2)) = .next t ∧ t.orient = .orientC0) ∧
    (∃ t, exec .hardReset ready = .next t) ∧ (∃ t, exec .init ready = .next t) := by
  refine ⟨⟨_, rfl, fun e h => ?_⟩, ⟨_, rfl⟩, ⟨_, rfl⟩, ⟨_, rfl⟩, ⟨_, rfl, rfl⟩, ⟨_, rfl⟩, _,
    serveProgram_live (s := ready) .init (initProgram Config.board ready.rst ready.bl) rfl⟩
  revert h
  rw [newEvents_of_append (evs := .beginEv .setAddressWindow :: windowBursts 1 2 3 4 ++ [.endEv .ok]) rfl]
  exact nofun

/-- ErrorNamesTheFailingAccess and ErrorsAreNotSticky: a transport error and a pin error. -/
theorem test_witness_errors :
    (∃ t, exec (.writeRaw [1]) (bare (failAt 1)) = .next t ∧
      resultsOf (newEvents (bare (failAt 1)) t) = [.error .transport]) ∧
    (∃ t, exec .hardReset (wired [] (pinFailAt 2 .first) []) = .next t ∧
      resultsOf (newEvents (wired [] (pinFailAt 2 .first) []) t) = [.error (.pin .first)]) := by
  refine ⟨⟨_, rfl, rfl⟩, _, rfl, rfl⟩

/-- AbortIsPrecise and ExecutorIsTheIndexedLoop. -/
theorem test_witness_executor :
    (bare (failAt 1)).upc = 0 ∧ (∃ t, runPrims [.cmd 1, .delay 5, .data [2], .delay 6] (bare (failAt 1)) =
      (t, some .transport) ∧ t.upc = 2) ∧ [Prim.cmd 1, .delay 5].length ≤ 2 := ⟨rfl, ⟨_, rfl, rfl⟩, by decide⟩

/-- RefusalsLeaveTheirMark: each of the three refusals of R207. -/
theorem test_witness_refusals :
    step (asked State.reset [0x00]) = .refused .illegalRequest ∧ step (asked gone [0x05]) = .refused .notLive ∧
    step (asked State.reset [0x01, 0x03]) = .refused .resourceOwned := ⟨rfl, rfl, rfl⟩

/-- CacheIsSeenByOrientationOnly. -/
theorem test_witness_CacheIsSeen : Instr.writeRaw [] ≠ .orientation ∧
    (∃ t, exec (.writeRaw []) (bare (oks 2)) = .next t) ∧
    ∃ u, exec (.writeRaw []) { bare (oks 2) with orient := .orientA0 } = .next u := ⟨nofun, ⟨_, rfl⟩, _, rfl⟩

/-- PixelCountIsUnbounded, ContextIsTheLastCommand and OrientationPatterns. -/
theorem test_witness_readings :
    ((1 : U16).toNat ≤ (1 : U16).toNat ∧ (0 : U16).toNat ≤ (0xFFFF : U16).toNat) ∧ pixelCount 1 2 1 2 = some 1 ∧ pixelCount 0 0 0xFFFF 0xFFFF = some (2 ^ 32) ∧
    ([.dataEv [1] .ok, .endEv .ok] : List Ev).filterMap evCommand = [] ∧ pat .orient60 = pat .orient60 := by decide

/-- AssembledLinesDecode: see also `test_assemble`. -/
theorem test_witness_AssembledLinesDecode :
    assemble ports ["release", ""] = some [⟨[0x02], default⟩] := rfl

/-- A line whose count no frame spells is an assembly error (log entry 25). -/
theorem test_assemble_refuses_long_buffer (p : Ports) (l : String)
    (h : assembleLine p l = some [.writeRaw (List.replicate (2 ^ 32) 0)]) : assembleRequests p l = none := by
  simp only [assembleRequests, h, List.all_cons, test_wf_refuses_long_buffer, Bool.false_and, Bool.false_eq_true, if_false]

/-- AssemblerOperandRanges: the numbers where an operand stops fitting. -/
theorem test_witness_AssemblerOperandRanges :
    numberOf "65535".toList = some 65535 ∧ numberOf "0x10000".toList = some 65536 ∧
    numberOf "0xff".toList = some 255 ∧ numberOf "256".toList = some 256 := by decide

end Sys2Proof.Tests
end

section
/-! The step on a waiting request: what is fetched, and what runs when its frame decodes (R4, R217). -/

namespace Sys2Proof.Machine

/-- The fetch takes the first waiting request off the queue and changes nothing else. -/
theorem fetch_of_reqs_cons {s : State} {r : Request} {rest : List Request} (h : s.reqs = r :: rest) :
    fetch s = some (r, { s with reqs := rest }) := by
  simp only [fetch, h]

/-- A fetched request whose frame decodes is executed in the state the fetch leaves. -/
theorem step_of_fetch_of_decode {s t : State} {r : Request} {i : Instr} (hf : fetch s = some (r, t))
    (hd : decode r.ports r.frame = .ok i) : step s = exec i t := by
  simp only [step, hf, hd]

/-- Settles O6: the fetch yields the first request and the state without it, and the step then runs what it decodes
to. -/
theorem stepRunsTheNextRequest : Obligations.StepRunsTheNextRequest := by
  intro s r rest i hq hd
  exact step_of_fetch_of_decode (fetch_of_reqs_cons hq) hd

end Sys2Proof.Machine
end

section
/-! What a request that answers a next state has done, case by case, and what it leaves alone (R21, R28, R102). -/

namespace Sys2Proof.Machine

/-- `new` runs on a block that is not Live, and this is the state it leaves (R100). -/
theorem exec_new_next {c : Chan} {r : Option RstLine} {b : Option BlLine} {s t : State}
    (h : exec (.new c r b) s = .next t) :
    s.life ≠ .live ∧ t = endRequest .ok (construct c r b (beginRequest .new s)) := by
  obtain ⟨_, _, _, hi, hl, ht⟩ | ⟨hi, -⟩ | ⟨hi, -⟩ | ⟨_, hp, -⟩ := exec_cases h
  · cases hi
    exact ⟨hl, ht⟩
  · cases hi
  · cases hi
  · cases hp

/-- `release` runs on a Live block, and this is the state it leaves (R101). -/
theorem exec_release_next {s t : State} (h : exec .release s = .next t) :
    s.life = .live ∧
      t = endRequest (.okHandles s.chan s.rst s.bl) { beginRequest .release s with life := .released } := by
  obtain ⟨_, _, _, hi, -⟩ | ⟨-, hl, ht⟩ | ⟨hi, -⟩ | ⟨_, hp, -⟩ := exec_cases h
  · cases hi
  · exact ⟨hl, ht⟩
  · cases hi
  · cases hp

/-- `new` is refused while the block is Live (R100, R207). -/
theorem exec_new_live {s : State} (c : Chan) (r : Option RstLine) (b : Option BlLine) (hl : s.life = .live) :
    exec (.new c r b) s = .refused .resourceOwned := by
  simp [exec, execNew, hl]

/-- Every request but `new` is refused unless the block is Live (R21, R207). -/
theorem exec_not_live {i : Instr} {s : State} (hi : ∀ c r b, i ≠ .new c r b) (hl : s.life ≠ .live) :
    exec i s = .refused .notLive := by
  cases hp : progOf i s with
  | some ps => rw [exec_program hp, serveProgram_not_live _ _ hl]
  | none =>
    cases i with
    | new c r b => exact absurd rfl (hi c r b)
    | release => simp [exec, execRelease, hl]
    | orientation => simp [exec, execOrientation, hl]
    | hardReset => cases hp
    | init => cases hp
    | setOrientation _ => cases hp
    | setAddressWindow _ _ _ _ => cases hp
    | setPixel _ _ _ => cases hp
    | setPixels _ _ _ _ _ => cases hp
    | writeRaw _ => cases hp

/-- A request other than `new` and `release` leaves the life and the handles alone (R21, R22, R102). -/
theorem exec_keeps_lifetime {i : Instr} {s t : State} (hn : ∀ c r b, i ≠ .new c r b) (hr : i ≠ .release)
    (h : exec i s = .next t) : t.life = s.life ∧ t.chan = s.chan ∧ t.rst = s.rst ∧ t.bl = s.bl := by
  obtain ⟨c, r, b, hi, -⟩ | ⟨hi, -⟩ | ⟨-, -, rfl⟩ | ⟨ps, hp, -⟩ := exec_cases h
  · exact absurd hi (hn c r b)
  · exact absurd hi hr
  · exact ⟨rfl, rfl, rfl, rfl⟩
  · rw [exec_program hp] at h
    obtain ⟨hlife, hchan, hrst, hbl, -⟩ := serveProgram_frame h
    exact ⟨hlife, hchan, hrst, hbl⟩

/-- A served request only appends to the trace (R28). -/
theorem exec_trace_grows {i : Instr} {s t : State} (h : exec i s = .next t) : s.trace <+: t.trace := by
  obtain ⟨_, _, _, -, -, rfl⟩ | ⟨-, -, rfl⟩ | ⟨-, -, rfl⟩ | ⟨ps, hp, -⟩ := exec_cases h
  · simp
  · simp
  · simp
  · rw [exec_program hp] at h
    obtain ⟨-, -, -, -, -, -, htrace⟩ := serveProgram_frame h
    exact htrace

/-- Settles O42: a step idles or serves a request, and a request only appends. -/
theorem traceOnlyGrows : Obligations.TraceOnlyGrows := by
  intro s t h
  obtain ⟨-, rfl⟩ | ⟨_, _, _, -, -, hexec⟩ := step_cases h
  · exact List.prefix_rfl
  · have hgrows := exec_trace_grows hexec
    exact hgrows

/-- Settles O11, clause by clause from what each request leaves. -/
theorem lifecycleLaw : Obligations.LifecycleLaw := by
  refine ⟨rfl, fun i s => ⟨?_, exec_not_live, fun t h => ⟨?_, ?_, ?_⟩⟩⟩
  · rintro ⟨c, r, b, rfl⟩ hl
    exact exec_new_live c r b hl
  · rintro ⟨c, r, b, rfl⟩
    rw [(exec_new_next h).2, endRequest_life, construct_life]
  · rintro rfl
    rw [(exec_release_next h).2, endRequest_life]
  · intro hn hr
    exact (exec_keeps_lifetime hn hr h).1

end Sys2Proof.Machine
end

section
/-! The handles of a lifetime (R22). -/

namespace Sys2Proof.Machine

/-- The block is Live and holds these handles. -/
structure Holds (c : Chan) (r : Option RstLine) (b : Option BlLine) (s : State) : Prop where
  life : s.life = .live
  chan : s.chan = c
  rst : s.rst = r
  bl : s.bl = b

section
variable {c : Chan} {r : Option RstLine} {b : Option BlLine}

theorem holds_of_exec_new {s t : State} (h : exec (.new c r b) s = .next t) : Holds c r b t := by
  rw [(exec_new_next h).2]
  exact ⟨rfl, rfl, rfl, rfl⟩

/-- A request other than `release` keeps the lifetime and its handles; a second `new` is refused. -/
theorem exec_keeps_holds {i : Instr} {s t : State} (hs : Holds c r b s) (hr : i ≠ .release)
    (h : exec i s = .next t) : Holds c r b t := by
  have hn : ∀ c r b, i ≠ .new c r b := by
    rintro c r b rfl
    exact (exec_new_next h).1 hs.life
  obtain ⟨hlife, hchan, hrst, hbl⟩ := exec_keeps_lifetime hn hr h
  exact ⟨hlife.trans hs.life, hchan.trans hs.chan, hrst.trans hs.rst, hbl.trans hs.bl⟩

/-- A run of unrefused requests is its first request and the rest. -/
theorem execAll_cons_next {i : Instr} {is : List Instr} {s u : State} (h : execAll (i :: is) s = .next u) :
    ∃ t, exec i s = .next t ∧ execAll is t = .next u := by
  unfold execAll at h
  cases hi : exec i s with
  | next t => exact ⟨t, rfl, by simpa [hi] using h⟩
  | fault f => nomatch f
  | refused e => simp [hi] at h

theorem execAll_keeps_holds {is : List Instr} {s u : State} (hs : Holds c r b s) (hr : Instr.release ∉ is)
    (h : execAll is s = .next u) : Holds c r b u := by
  induction is generalizing s with
  | nil => cases h; exact hs
  | cons i is ih =>
    obtain ⟨t, hi, his⟩ := execAll_cons_next h
    have hne : i ≠ .release := (List.ne_of_not_mem_cons hr).symm
    exact ih (exec_keeps_holds hs hne hi) (List.not_mem_of_not_mem_cons hr) his

/-- `release` answers the handles the block holds (R101). -/
theorem exec_release_of_holds {s : State} (hs : Holds c r b s) :
    ∃ t, exec .release s = .next t ∧ t.trace = s.trace ++ [.beginEv .release, .endEv (.okHandles c r b)] := by
  obtain ⟨hl, rfl, rfl, rfl⟩ := hs
  exact ⟨endRequest (.okHandles s.chan s.rst s.bl) { beginRequest .release s with life := .released },
    by simp [exec, execRelease, hl], by simp⟩

end

/-- Settles O15: `new` gives the block its handles, and every request of the run keeps them. -/
theorem releaseReturnsWhatNewWasGiven : Obligations.ReleaseReturnsWhatNewWasGiven := by
  intro s t u c r b is hnew hrun hrel
  have hu : Holds c r b u := execAll_keeps_holds (holds_of_exec_new hnew) hrel hrun
  exact ⟨hu.chan, hu.rst, hu.bl, exec_release_of_holds hu⟩

end Sys2Proof.Machine
end

section
/-! The executor against the loop of R30 by index, and against the orientation cache. -/

namespace Sys2Proof.Machine

/-- A round of the loop whose primitive raises nothing goes on with the next (R29, R30). -/
theorem execLoop_succ_ok {prog : List Prim} {p : Prim} {s : State} (fuel : Nat) (hp : prog[s.upc]? = some p)
    (h : primRaise p s = none) : execLoop (fuel + 1) prog s = execLoop fuel prog (advance (stepPrim p s).1) := by
  rw [execLoop, hp]
  dsimp only
  rw [← Prod.mk.eta (p := stepPrim p s), stepPrim_raise, h]

/-- A round of the loop whose primitive raises is its last (R203). -/
theorem execLoop_succ_raise {prog : List Prim} {p : Prim} {s : State} {e : Err} (fuel : Nat)
    (hp : prog[s.upc]? = some p) (h : primRaise p s = some e) :
    execLoop (fuel + 1) prog s = ((stepPrim p s).1, some e) := by
  rw [execLoop, hp]
  dsimp only
  rw [← Prod.mk.eta (p := stepPrim p s), stepPrim_raise, h]

/-- The loop ends when `upc` is past the program (R30). -/
theorem execLoop_past_end {prog : List Prim} {s : State} (fuel : Nat) (h : prog.length ≤ s.upc) :
    execLoop fuel prog s = (s, none) := by
  cases fuel with
  | zero => rfl
  | succ fuel => rw [execLoop, List.getElem?_eq_none h]

/-- The loop of R30 started anywhere in the program runs what is left of it, given as many rounds (R29, R30). -/
theorem execLoop_eq_runPrims_drop (prog : List Prim) (fuel : Nat) (s : State) (h : prog.length ≤ s.upc + fuel) :
    execLoop fuel prog s = runPrims (prog.drop s.upc) s := by
  induction fuel generalizing s with
  | zero => rw [execLoop_past_end 0 h, List.drop_eq_nil_of_le (by omega), runPrims_nil]
  | succ fuel ih =>
    by_cases hlt : s.upc < prog.length
    · have hp : prog[s.upc]? = some prog[s.upc] := List.getElem?_eq_getElem hlt
      rw [List.drop_eq_getElem_cons hlt]
      cases hr : primRaise prog[s.upc] s with
      | none =>
        have hupc : (advance (stepPrim prog[s.upc] s).1).upc = s.upc + 1 := by
          rw [advance_upc, (stepPrim_done _ s).upc]
        rw [execLoop_succ_ok fuel hp hr, runPrims_cons_ok _ hr, ih _ (by omega), hupc]
      | some e => rw [execLoop_succ_raise fuel hp hr, runPrims_cons_raise _ hr]
    · have hpast : prog.length ≤ s.upc := Nat.le_of_not_lt hlt
      rw [execLoop_past_end _ hpast, List.drop_eq_nil_of_le hpast, runPrims_nil]

/-- Settles O38: from `upc` 0 what is left of the program is all of it. -/
theorem executorIsTheIndexedLoop : Obligations.ExecutorIsTheIndexedLoop := by
  intro prog s fuel hupc hfuel
  rw [execLoop_eq_runPrims_drop prog fuel s (by omega), hupc, List.drop_zero]

/-! ### The cache is no operand (R30, R141) -/

/-- A state with another cached orientation. -/
def withOrient (o : Orientation) (s : State) : State := { s with orient := o }

@[simp] theorem withOrient_trace (o : Orientation) (s : State) : (withOrient o s).trace = s.trace := rfl

theorem chanOracle_withOrient (o : Orientation) (s : State) :
    chanOracle (withOrient o s) = ((chanOracle s).1, withOrient o (chanOracle s).2) := by
  unfold chanOracle withOrient
  cases s.chanIn <;> rfl

theorem pinOracle_withOrient (line : Line) (o : Orientation) (s : State) :
    pinOracle line (withOrient o s) = ((pinOracle line s).1, withOrient o (pinOracle line s).2) := by
  unfold pinOracle withOrient
  cases line
  · cases s.rstIn <;> rfl
  · cases s.blIn <;> rfl

/-- A primitive does the same whatever the cache holds, and raises the same. -/
theorem stepPrim_withOrient (p : Prim) (o : Orientation) (s : State) :
    stepPrim p (withOrient o s) = (withOrient (primOrient p o) (stepPrim p s).1, (stepPrim p s).2) := by
  cases p with
  | cmd b => simp only [stepPrim, primCmd, chanOracle_withOrient]; rfl
  | data bs => simp only [stepPrim, primData, chanOracle_withOrient]; rfl
  | pin line lv => simp only [stepPrim, primPin, pinOracle_withOrient]; rfl
  | delay us => rfl
  | setOrient o' => rfl

/-- A micro-program run from another cached orientation differs in the cache alone. -/
theorem runPrims_withOrient (ps : List Prim) (o : Orientation) (s : State) :
    ∃ o', runPrims ps (withOrient o s) = (withOrient o' (runPrims ps s).1, (runPrims ps s).2) := by
  induction ps generalizing o s with
  | nil => exact ⟨o, rfl⟩
  | cons p ps ih =>
    rw [runPrims, runPrims, stepPrim_withOrient]
    obtain ⟨t, e⟩ := stepPrim p s
    cases e with
    | some e => exact ⟨primOrient p o, rfl⟩
    | none => exact ih (primOrient p o) (advance t)

/-- A request that runs a micro-program leaves the same trace from another cached orientation. -/
theorem serveProgram_withOrient_trace {op : OpName} {ps : List Prim} {o : Orientation} {s t u : State}
    (ht : serveProgram op ps s = .next t) (hu : serveProgram op ps (withOrient o s) = .next u) :
    u.trace = t.trace := by
  obtain ⟨-, rfl⟩ := serveProgram_next ht
  obtain ⟨-, rfl⟩ := serveProgram_next hu
  obtain ⟨o', ho⟩ := runPrims_withOrient ps o (beginRequest op s)
  have hbegin : beginRequest op (withOrient o s) = withOrient o (beginRequest op s) := rfl
  simp only [finishRequest_eq, hbegin, ho, endRequest_trace, withOrient_trace]

/-- The micro-program of a request does not depend on the cache: its guards look at the lines alone (R30). -/
theorem progOf_withOrient (i : Instr) (o : Orientation) (s : State) : progOf i (withOrient o s) = progOf i s := by
  cases i <;> rfl

/-- Settles O48: `new` and `release` write the same events whatever the cache, and a micro-program does not read it. -/
theorem cacheIsSeenByOrientationOnly : Obligations.CacheIsSeenByOrientationOnly := by
  intro i s t u o hi ht hu
  change exec i (withOrient o s) = .next u at hu
  obtain ⟨c, r, b, rfl, -, -⟩ | ⟨rfl, -, -⟩ | ⟨hori, -⟩ | ⟨ps, hp, -⟩ := exec_cases ht
  · rw [(exec_new_next ht).2, (exec_new_next hu).2]
    rfl
  · rw [(exec_release_next ht).2, (exec_release_next hu).2]
    rfl
  · exact absurd hori hi
  · rw [exec_program hp] at ht
    rw [exec_program ((progOf_withOrient i o s).trans hp)] at hu
    exact serveProgram_withOrient_trace ht hu

end Sys2Proof.Machine
end

section
/-! The command context of a trace (R35). -/

namespace Sys2Proof.Machine

theorem ctx_cmdEv_cons (b : Byte) (a : ChanAns) (T : List Ev) : ctx (.cmdEv b a :: T) = (ctx T).or (some b) := by
  rw [← List.singleton_append, ctx_append]
  rfl

/-- An event without a command is no command event. -/
theorem evCommand_eq_none {e : Ev} : evCommand e = none ↔ ∀ b a, e ≠ .cmdEv b a := by
  cases e <;> simp [evCommand]

theorem ctx_eq_none {T : List Ev} : ctx T = none ↔ ∀ e ∈ T, evCommand e = none := by
  rw [ctx, List.getLast?_eq_none_iff, List.filterMap_eq_nil_iff]

/-- Settles O51: the context of a concatenation is that of its last part that has a command. -/
theorem contextIsTheLastCommand : Obligations.ContextIsTheLastCommand := by
  refine ⟨rfl, fun T U b a hU => ?_, fun T => ?_⟩
  · have hctx : ctx U = none := by rw [ctx, hU, List.getLast?_nil]
    rw [ctx_append, ctx_cmdEv_cons, hctx]
    rfl
  · rw [ctx_eq_none]
    constructor
    · intro h b a hmem
      exact evCommand_eq_none.mp (h _ hmem) b a rfl
    · intro h e hmem
      refine evCommand_eq_none.mpr fun b a he => h b a ?_
      rwa [← he]

end Sys2Proof.Machine
end

section
/-! The orientation cache against the trace (R25, R113): what the reading of the trace makes of each event of a
request, and that a micro-program writes the cache just where the reading says the orientation was written. -/

namespace Sys2Proof.Machine

/-- The variant of a variant's pattern is that variant (R24). -/
theorem orientOfBurst_pat (o : Orientation) : orientOfBurst [pat o] = some o := by
  cases o <;> rfl

/-- Settles O26: the tables by evaluation, and a pattern gives its variant back. -/
theorem orientationPatterns : Obligations.OrientationPatterns := by
  refine ⟨rfl, rfl, fun o o' h => ?_⟩
  rw [← Option.some_inj, ← orientOfBurst_pat o, h, orientOfBurst_pat]

/-! ### The reading over the events of one request -/

/-- Where the reading of a trace stands at its end. -/
def scanOf (policy : CachePolicy) (T : List Ev) : OrientScan := T.foldl (scanEv policy) ⟨none, 0, defaultOrientation⟩

theorem scanOf_append (policy : CachePolicy) (T U : List Ev) :
    scanOf policy (T ++ U) = U.foldl (scanEv policy) (scanOf policy T) := List.foldl_append

theorem lastWritten_eq (policy : CachePolicy) (T : List Ev) : lastWritten policy T = (scanOf policy T).orient := rfl

/-- The end of any request but `new` writes no orientation. -/
theorem scanEv_endEv_orient (policy : CachePolicy) {sc : OrientScan} (r : Result) (h : sc.op ≠ some .new) :
    (scanEv policy sc (.endEv r)).orient = sc.orient := by
  simp [scanEv, h]

/-- Whether accepted burst number `k` of a request (1 the first) may be read as a write of the orientation. -/
def MayWrite (policy : CachePolicy) (op : OpName) (k : Nat) : Prop :=
  op = .setOrientation ∨ op = .init ∧ k = 14 ∧ policy = .setDefault

theorem scanBurst_op (policy : CachePolicy) (sc : OrientScan) (d : Option (List Byte)) :
    (scanBurst policy sc d).op = sc.op := by
  unfold scanBurst
  split
  · rfl
  · dsimp only
    split <;> rfl
  · rfl

/-- A burst that may not write is counted and nothing else. -/
theorem scanBurst_of_not_mayWrite {policy : CachePolicy} {sc : OrientScan} {op : OpName} (hop : sc.op = some op)
    (h : ¬ MayWrite policy op (sc.bursts + 1)) (d : Option (List Byte)) :
    scanBurst policy sc d = { sc with bursts := sc.bursts + 1 } := by
  obtain ⟨hset, hinit⟩ := not_or.mp h
  unfold scanBurst
  split
  · rename_i hop'
    exact absurd (Option.some.inj (hop.symm.trans hop')) hset
  · rename_i hop'
    have hnot := not_and.mp hinit (Option.some.inj (hop.symm.trans hop'))
    exact if_neg hnot
  · rfl

/-- A request's own events leave the reading in that request. -/
theorem scan_okEvent_op (policy : CachePolicy) (sc : OrientScan) (p : Prim) :
    ((okEvent p).foldl (scanEv policy) sc).op = sc.op := by
  cases p with
  | cmd b => exact scanBurst_op policy sc none
  | data bs => exact scanBurst_op policy sc (some bs)
  | pin line lv => rfl
  | delay us => rfl
  | setOrient o => rfl

/-- A primitive whose burst, if it is one, may not write moves the count of bursts alone. -/
theorem scan_okEvent_of_not_mayWrite {policy : CachePolicy} {sc : OrientScan} {op : OpName} (hop : sc.op = some op)
    (p : Prim) (h : (primDraws p).1 = 1 → ¬ MayWrite policy op (sc.bursts + 1)) :
    (okEvent p).foldl (scanEv policy) sc = { sc with bursts := sc.bursts + (primDraws p).1 } := by
  cases p with
  | cmd b => exact scanBurst_of_not_mayWrite hop (h rfl) none
  | data bs => exact scanBurst_of_not_mayWrite hop (h rfl) (some bs)
  | pin line lv => cases line <;> rfl
  | delay us => rfl
  | setOrient o => rfl

theorem chanAns_of_chanErr_some {a : ChanAns} {e : Err} (h : chanErr a = some e) : a = .fail := by
  cases a with
  | ok => cases h
  | fail => rfl

theorem chanAns_of_chanErr_none {a : ChanAns} (h : chanErr a = none) : a = .ok := by
  cases a with
  | ok => rfl
  | fail => cases h

theorem pinAns_of_pinErr_none {a : PinAns} (h : pinErr a = none) : a = .ok := by
  cases a with
  | ok => rfl
  | fail e => cases h

/-- A failed access is no write: the reading stays where it is (R114). -/
theorem scan_primEvent_of_raise {policy : CachePolicy} {p : Prim} {s : State} {e : Err} (h : primRaise p s = some e)
    (sc : OrientScan) : (primEvent p s).foldl (scanEv policy) sc = sc := by
  cases p with
  | cmd b => rw [primEvent, chanAns_of_chanErr_some h]; rfl
  | data bs => rw [primEvent, chanAns_of_chanErr_some h]; rfl
  | pin line lv => rfl
  | delay us => cases h
  | setOrient o => cases h

/-- An access that raises nothing was answered OK. -/
theorem primEvent_of_no_raise {p : Prim} {s : State} (h : primRaise p s = none) : primEvent p s = okEvent p := by
  cases p with
  | cmd b => rw [primEvent, chanAns_of_chanErr_none h]; rfl
  | data bs => rw [primEvent, chanAns_of_chanErr_none h]; rfl
  | pin line lv => rw [primEvent, pinAns_of_pinErr_none h]; rfl
  | delay us => rfl
  | setOrient o => rfl

/-! ### Micro-programs that keep the cache in step with the reading -/

/-- The primitives that may fail, and so may be a request's last: the accesses (R44 to R46). -/
def isAccess : Prim → Bool
  | .cmd _ => true
  | .data _ => true
  | .pin _ _ => true
  | .delay _ => false
  | .setOrient _ => false

/-- What raises is an access, and an access writes no cache. -/
theorem access_of_raise {p : Prim} {s : State} {e : Err} (h : primRaise p s = some e) :
    isAccess p = true ∧ ∀ o, primOrient p o = o := by
  cases p with
  | cmd b => exact ⟨rfl, fun _ => rfl⟩
  | data bs => exact ⟨rfl, fun _ => rfl⟩
  | pin line lv => exact ⟨rfl, fun _ => rfl⟩
  | delay us => cases h
  | setOrient o => cases h

/-- Where a micro-program can end, at an access that fails or behind its last primitive, the reading of its events and
the cache it has written agree. In between they may not: the burst of `set_orientation` comes before its cache write. -/
def AgreesAtStops (policy : CachePolicy) : List Prim → OrientScan → Orientation → Prop
  | [], sc, o => sc.orient = o
  | p :: ps, sc, o =>
    (isAccess p = true → sc.orient = o) ∧
      AgreesAtStops policy ps ((okEvent p).foldl (scanEv policy) sc) (primOrient p o)

/-- A micro-program in two parts, the first of which writes nothing and is read as writing nothing. -/
theorem AgreesAtStops.append_quiet {policy : CachePolicy} {op : OpName} {ps qs : List Prim} {sc : OrientScan}
    (hop : sc.op = some op) (hps : ∀ o, Prim.setOrient o ∉ ps)
    (hw : ∀ k, sc.bursts < k → k ≤ sc.bursts + chanDraws ps → ¬ MayWrite policy op k)
    (hqs : AgreesAtStops policy qs { sc with bursts := sc.bursts + chanDraws ps } sc.orient) :
    AgreesAtStops policy (ps ++ qs) sc sc.orient := by
  induction ps generalizing sc with
  | nil => exact hqs
  | cons p ps ih =>
    have hscan := scan_okEvent_of_not_mayWrite hop p (policy := policy) fun h1 =>
      hw _ (Nat.lt_succ_self _) (by rw [chanDraws_cons]; omega)
    have horient : primOrient p sc.orient = sc.orient := by
      cases p with
      | setOrient o => exact absurd List.mem_cons_self (hps o)
      | cmd b => rfl
      | data bs => rfl
      | pin line lv => rfl
      | delay us => rfl
    refine ⟨fun _ => rfl, ?_⟩
    rw [hscan, horient]
    rw [chanDraws_cons, ← Nat.add_assoc] at hqs
    refine ih hop (fun o hmem => hps o (List.mem_cons_of_mem p hmem)) (fun k hlo hhi => hw k ?_ ?_) hqs
    · exact Nat.lt_of_le_of_lt (Nat.le_add_right _ _) hlo
    · rw [chanDraws_cons, ← Nat.add_assoc]
      exact hhi

/-- A micro-program that writes nothing and is read as writing nothing. -/
theorem AgreesAtStops.quiet {policy : CachePolicy} {op : OpName} {ps : List Prim} {sc : OrientScan}
    (hop : sc.op = some op) (hps : ∀ o, Prim.setOrient o ∉ ps)
    (hw : ∀ k, sc.bursts < k → k ≤ sc.bursts + chanDraws ps → ¬ MayWrite policy op k) :
    AgreesAtStops policy ps sc sc.orient := by
  rw [← List.append_nil ps]
  exact .append_quiet hop hps hw rfl

/-- `set_orientation` writes the cache with the variant its data burst is read as (R141). -/
theorem seto_agreesAtStops (policy : CachePolicy) (cfg : Config) (o₀ o : Orientation) :
    AgreesAtStops policy (seto cfg o) ⟨some .setOrientation, 0, o₀⟩ o₀ := by
  refine ⟨fun _ => rfl, fun _ => rfl, nofun, ?_⟩
  show (orientOfBurst [pat o]).getD o₀ = o
  rw [orientOfBurst_pat]
  rfl

/-! `init` in three parts: what comes before its burst number 14, that burst with the cache write, and the rest. -/

/-- Steps 1 to 5 of R112 and the command of step 6: 13 bursts. -/
def initBeforeMadctl (cfg : Config) (rst : Option RstLine) (bl : Option BlLine) : List Prim :=
  hrst cfg rst ++ (bls bl ++ (
    [Prim.cmd (cfg.opc .swreset), Prim.delay swresetUs, Prim.cmd (cfg.opc .slpout), Prim.delay slpoutUs] ++
      (initStep5 cfg ++ [Prim.cmd (cfg.opc .madctl)])))

/-- Steps 7 to 10 of R112. -/
def initAfterMadctl (cfg : Config) : List Prim :=
  [Prim.cmd (cfg.opc .colmod), Prim.data [cfg.colmodByte]] ++ (initStep8 cfg ++
    [Prim.cmd (cfg.opc .slpout), Prim.delay slpoutUs, Prim.cmd (cfg.opc .dispon), Prim.delay disponUs])

theorem initProgram_eq (cfg : Config) (rst : Option RstLine) (bl : Option BlLine) :
    initProgram cfg rst bl =
      initBeforeMadctl cfg rst bl ++ .data [cfg.initMadctl] :: (initCacheWrite cfg ++ initAfterMadctl cfg) := by
  simp [initProgram, initBeforeMadctl, initAfterMadctl]

theorem setOrient_notMem_hrst (cfg : Config) (rst : Option RstLine) (o : Orientation) :
    Prim.setOrient o ∉ hrst cfg rst := by
  cases rst <;> simp [hrst, guarded]

theorem chanDraws_hrst (cfg : Config) (rst : Option RstLine) : chanDraws (hrst cfg rst) = 0 := by
  cases rst <;> rfl

theorem setOrient_notMem_initBeforeMadctl (cfg : Config) (rst : Option RstLine) (bl : Option BlLine) (o : Orientation) :
    Prim.setOrient o ∉ initBeforeMadctl cfg rst bl := by
  cases bl <;> simp [initBeforeMadctl, setOrient_notMem_hrst, bls, guarded, initStep5, paramCommand]

theorem chanDraws_initBeforeMadctl (cfg : Config) (rst : Option RstLine) (bl : Option BlLine) :
    chanDraws (initBeforeMadctl cfg rst bl) = 13 := by
  have hbl : chanDraws (bls bl) = 0 := by cases bl <;> rfl
  simp only [initBeforeMadctl, chanDraws_append, chanDraws_hrst, hbl]
  rfl

theorem setOrient_notMem_initAfterMadctl (cfg : Config) (o : Orientation) :
    Prim.setOrient o ∉ initAfterMadctl cfg := by
  simp [initAfterMadctl, initStep8, paramCommand]

/-- The 14th accepted burst of `init` is read as a write of the default under `SetDefault` alone (R113, R115). -/
theorem scanBurst_init_fourteenth (policy : CachePolicy) (o : Orientation) (d : Option (List Byte)) :
    scanBurst policy ⟨some .init, 13, o⟩ d =
      ⟨some .init, 14, if policy = .setDefault then defaultOrientation else o⟩ := by
  cases policy <;> rfl

/-- `init` writes the cache behind its 14th burst just when the reading says that burst wrote the orientation: under
`SetDefault` (R113). -/
theorem initProgram_agreesAtStops (cfg : Config) (rst : Option RstLine) (bl : Option BlLine) (o : Orientation) :
    AgreesAtStops cfg.cachePolicy (initProgram cfg rst bl) ⟨some .init, 0, o⟩ o := by
  have hquiet {k : Nat} (hk : k ≠ 14) : ¬ MayWrite cfg.cachePolicy .init k := by simp [MayWrite, hk]
  have hafter (o' : Orientation) : AgreesAtStops cfg.cachePolicy (initAfterMadctl cfg) ⟨some .init, 14, o'⟩ o' :=
    .quiet rfl (setOrient_notMem_initAfterMadctl cfg) fun k hlo _ => hquiet (Nat.ne_of_gt hlo)
  have hburst : (okEvent (.data [cfg.initMadctl])).foldl (scanEv cfg.cachePolicy) ⟨some .init, 13, o⟩ =
      ⟨some .init, 14, if cfg.cachePolicy = .setDefault then defaultOrientation else o⟩ :=
    scanBurst_init_fourteenth cfg.cachePolicy o (some [cfg.initMadctl])
  rw [initProgram_eq]
  refine .append_quiet rfl (setOrient_notMem_initBeforeMadctl cfg rst bl) (fun k _ hhi => hquiet ?_) ?_
  · rw [chanDraws_initBeforeMadctl] at hhi
    exact Nat.ne_of_lt (Nat.lt_succ_of_le hhi)
  · rw [chanDraws_initBeforeMadctl]
    refine ⟨fun _ => rfl, ?_⟩
    rw [Nat.zero_add, hburst, initCacheWrite]
    generalize cfg.cachePolicy = policy at hafter
    cases policy with
    | setDefault => exact ⟨nofun, hafter defaultOrientation⟩
    | keep => exact hafter o

/-- The window's bursts and the memory write's hold no cache write (R150, R163). -/
theorem setOrient_notMem_win (cfg : Config) (sx sy ex ey : U16) (o : Orientation) :
    Prim.setOrient o ∉ win cfg sx sy ex ey := by
  simp [win]

theorem setOrient_notMem_mw (cfg : Config) (payload : List Byte) (o : Orientation) :
    Prim.setOrient o ∉ mw cfg payload := by
  simp [mw]

/-- Only `set_orientation` and `init` have a cache write in their micro-program (R102). -/
theorem setOrient_notMem_progOf {i : Instr} {s : State} {ps : List Prim} (hp : progOf i s = some ps)
    (hset : opNameOf i ≠ .setOrientation) (hinit : opNameOf i ≠ .init) (o : Orientation) : Prim.setOrient o ∉ ps := by
  cases i with
  | new c r b => cases hp
  | release => cases hp
  | orientation => cases hp
  | init => exact absurd rfl hinit
  | setOrientation o' => exact absurd rfl hset
  | hardReset => cases hp; exact setOrient_notMem_hrst _ _ o
  | setAddressWindow sx sy ex ey => cases hp; exact setOrient_notMem_win _ _ _ _ _ o
  | setPixel x y color =>
    cases hp
    exact List.mem_append.not.mpr (not_or.mpr ⟨setOrient_notMem_win _ _ _ _ _ o, setOrient_notMem_mw _ _ o⟩)
  | setPixels sx sy ex ey colors =>
    cases hp
    exact List.mem_append.not.mpr (not_or.mpr ⟨setOrient_notMem_win _ _ _ _ _ o, setOrient_notMem_mw _ _ o⟩)
  | writeRaw buf => cases hp; exact setOrient_notMem_mw _ _ o

/-- Every micro-program, read from the start of its request, agrees with the cache wherever it can end. -/
theorem progOf_agreesAtStops {i : Instr} {s : State} {ps : List Prim} (hp : progOf i s = some ps) (o : Orientation) :
    AgreesAtStops Config.board.cachePolicy ps ⟨some (opNameOf i), 0, o⟩ o := by
  by_cases hset : opNameOf i = .setOrientation
  · cases i <;> cases hset
    cases hp
    exact seto_agreesAtStops Config.board.cachePolicy Config.board o _
  by_cases hinit : opNameOf i = .init
  · cases i <;> cases hinit
    cases hp
    exact initProgram_agreesAtStops Config.board s.rst s.bl o
  refine .quiet rfl (setOrient_notMem_progOf hp hset hinit) fun k _ _ => ?_
  simp [MayWrite, hset, hinit]

/-! ### Runs -/

/-- Wherever the run of such a micro-program ends, the cache is what the trace is read as, and the reading is still in
the request. -/
theorem runPrims_agrees {policy : CachePolicy} {ps : List Prim} {s : State}
    (h : AgreesAtStops policy ps (scanOf policy s.trace) s.orient) :
    (scanOf policy (runPrims ps s).1.trace).orient = (runPrims ps s).1.orient ∧
      (scanOf policy (runPrims ps s).1.trace).op = (scanOf policy s.trace).op := by
  induction ps generalizing s with
  | nil => exact ⟨h, rfl⟩
  | cons p ps ih =>
    obtain ⟨hstop, hrest⟩ := h
    have hdone := stepPrim_done p s
    have hscan : scanOf policy (stepPrim p s).1.trace = (primEvent p s).foldl (scanEv policy) (scanOf policy s.trace) := by
      rw [hdone.trace, scanOf_append]
    cases hr : primRaise p s with
    | none =>
      rw [primEvent_of_no_raise hr] at hscan
      rw [← hscan, ← hdone.orient] at hrest
      rw [runPrims_cons_ok _ hr]
      obtain ⟨horient, hop⟩ := ih (s := advance (stepPrim p s).1) hrest
      refine ⟨horient, hop.trans ?_⟩
      rw [advance_trace, hscan, scan_okEvent_op]
    | some e =>
      rw [scan_primEvent_of_raise hr] at hscan
      obtain ⟨haccess, horient⟩ := access_of_raise hr
      rw [runPrims_cons_raise _ hr, hscan, hdone.orient, horient]
      exact ⟨hstop haccess, rfl⟩

/-! ### Requests -/

/-- The start of a request puts the reading before its first burst, the orientation as it was. -/
theorem scanOf_beginRequest {policy : CachePolicy} (op : OpName) {s : State} {o : Orientation}
    (h : lastWritten policy s.trace = o) : scanOf policy (beginRequest op s).trace = ⟨some op, 0, o⟩ := by
  rw [beginRequest_trace, scanOf_append, ← h]
  rfl

/-- The end of a request other than `new` keeps the agreement. -/
theorem cacheAgrees_endRequest {s : State} (h : CacheAgrees s) (r : Result)
    (hop : (scanOf Config.board.cachePolicy s.trace).op ≠ some .new) : CacheAgrees (endRequest r s) := by
  rw [CacheAgrees, lastWritten_eq, endRequest_trace, scanOf_append, endRequest_orient, ← h, lastWritten_eq]
  exact scanEv_endEv_orient Config.board.cachePolicy r hop

/-- A request without I/O that writes no cache keeps the agreement, whatever it does to the life (R101, R140). -/
theorem cacheAgrees_markers {s t : State} (h : CacheAgrees s) {op : OpName} (hop : op ≠ .new) (r : Result)
    (htrace : t.trace = (beginRequest op s).trace) (horient : t.orient = s.orient) :
    CacheAgrees (endRequest r t) := by
  have hscan := scanOf_beginRequest op h
  rw [← htrace] at hscan
  refine cacheAgrees_endRequest ?_ r ?_
  · rw [CacheAgrees, lastWritten_eq, hscan, horient]
  · rw [hscan]
    exact fun h => hop (Option.some.inj h)

/-- `new` sets both the cache and the reading to the default (R26, R100). -/
theorem cacheAgrees_new (c : Chan) (r : Option RstLine) (b : Option BlLine) (s : State) :
    CacheAgrees (endRequest .ok (construct c r b (beginRequest .new s))) := by
  rw [CacheAgrees, lastWritten_eq, endRequest_trace, construct_trace, scanOf_append, scanOf_beginRequest .new rfl]
  rfl

theorem opNameOf_ne_new_of_progOf {i : Instr} {s : State} {ps : List Prim} (hp : progOf i s = some ps) :
    opNameOf i ≠ .new := by
  intro hnew
  cases i <;> cases hnew
  cases hp

/-- A served micro-program keeps the agreement, wherever it ended. -/
theorem cacheAgrees_finishRequest {i : Instr} {s : State} {ps : List Prim} (h : CacheAgrees s)
    (hp : progOf i s = some ps) :
    CacheAgrees (finishRequest (runPrims ps (beginRequest (opNameOf i) s))) := by
  have hscan := scanOf_beginRequest (opNameOf i) h
  have hstart := progOf_agreesAtStops hp s.orient
  rw [← hscan] at hstart
  obtain ⟨horient, hop⟩ := runPrims_agrees (s := beginRequest (opNameOf i) s) hstart
  rw [finishRequest_eq]
  refine cacheAgrees_endRequest horient _ ?_
  rw [hop, hscan]
  exact fun h => opNameOf_ne_new_of_progOf hp (Option.some.inj h)

theorem exec_keeps_cacheAgrees {i : Instr} {s t : State} (hs : CacheAgrees s) (h : exec i s = .next t) :
    CacheAgrees t := by
  obtain ⟨c, r, b, -, -, rfl⟩ | ⟨-, -, rfl⟩ | ⟨-, -, rfl⟩ | ⟨ps, hp, -, rfl⟩ := exec_cases h
  · exact cacheAgrees_new c r b s
  · exact cacheAgrees_markers hs (op := .release) nofun _ rfl rfl
  · exact cacheAgrees_markers hs (op := .orientation) nofun _ rfl rfl
  · exact cacheAgrees_finishRequest hs hp

/-- Settles O28: a step idles or serves a request, and every request keeps the agreement, wherever it stops. -/
theorem cacheAgreesIsKept : Obligations.CacheAgreesIsKept := by
  intro s t hs h
  obtain ⟨-, rfl⟩ | ⟨_, rest, _, -, -, hexec⟩ := step_cases h
  · exact hs
  · have hs' : CacheAgrees { s with reqs := rest } := hs
    exact exec_keeps_cacheAgrees hs' hexec

end Sys2Proof.Machine
end

section
/-! The state after reset (R37, R230). -/

namespace Sys2Proof.Machine

/-- Settles O13: `new` runs on the Absent block, and the state it leaves is written out by evaluation. -/
theorem resetIsTheStateAfterNew : Obligations.ResetIsTheStateAfterNew := rfl

/-- Settles O27: the two markers of `new` in the trace at reset are read as the default orientation. -/
theorem cacheAgreesAtReset : Obligations.CacheAgreesAtReset := rfl

/-- Settles O40: the two markers of `new` are one whole request. -/
theorem legalTraceAtReset : Obligations.LegalTraceAtReset := rfl

end Sys2Proof.Machine
end

section
/-! What one primitive appends and raises (R31, R44 to R47), and what the controller may have received of a trace
(R48). -/

namespace Sys2Proof.Machine

theorem chanErr_eq_ite (a : ChanAns) : chanErr a = if a = .fail then some .transport else none := by
  cases a <;> rfl

/-- Settles O39: each clause is the primitive's own event and error, with the answer it draws. -/
theorem primitivesAppendAndRaise : Obligations.PrimitivesAppendAndRaise := by
  intro s
  refine ⟨fun b => ⟨?_, ?_⟩, fun bs => ⟨?_, ?_⟩, fun lv => ⟨?_, ?_⟩, fun lv => ⟨?_, ?_⟩, fun _ => rfl, fun _ => rfl⟩
  · exact (stepPrim_done (.cmd b) s).trace
  · exact (stepPrim_raise (.cmd b) s).trans (chanErr_eq_ite _)
  · exact (stepPrim_done (.data bs) s).trace
  · exact (stepPrim_raise (.data bs) s).trans (chanErr_eq_ite _)
  · exact (stepPrim_done (.pin .rst lv) s).trace
  · exact stepPrim_raise (.pin .rst lv) s
  · exact (stepPrim_done (.pin .bl lv) s).trace
  · exact stepPrim_raise (.pin .bl lv) s

/-! ### What may have been delivered -/

@[simp] theorem deliveries_nil : deliveries [] = [[]] := rfl

/-- A stream of a trace is one of its first event followed by one of the rest. -/
theorem mem_deliveries_cons {e : Ev} {T : List Ev} {w : List WireByte} :
    w ∈ deliveries (e :: T) ↔ ∃ a ∈ evDeliveries e, ∃ b ∈ deliveries T, a ++ b = w := by
  simp only [deliveries, List.mem_flatMap, List.mem_map]

theorem mem_deliveries_singleton {e : Ev} {w : List WireByte} : w ∈ deliveries [e] ↔ w ∈ evDeliveries e := by
  simp [mem_deliveries_cons]

/-- The streams of two traces in a row are those of the first, each followed by each of the second. -/
theorem mem_deliveries_append {T U : List Ev} {w : List WireByte} :
    w ∈ deliveries (T ++ U) ↔ ∃ a b, a ∈ deliveries T ∧ b ∈ deliveries U ∧ w = a ++ b := by
  induction T generalizing w with
  | nil => simp
  | cons e T ih =>
    rw [List.cons_append, mem_deliveries_cons]
    constructor
    · rintro ⟨a, ha, v, hv, rfl⟩
      obtain ⟨b, c, hb, hc, rfl⟩ := ih.mp hv
      exact ⟨a ++ b, c, mem_deliveries_cons.mpr ⟨a, ha, b, hb, rfl⟩, hc, (List.append_assoc a b c).symm⟩
    · rintro ⟨_, c, hab, hc, rfl⟩
      obtain ⟨a, ha, b, hb, rfl⟩ := mem_deliveries_cons.mp hab
      exact ⟨a, ha, b ++ c, ih.mpr ⟨b, c, hb, hc, rfl⟩, (List.append_assoc a b c).symm⟩

/-- A failed data burst may have delivered any beginning of its bytes, from none to all of them. -/
theorem mem_evDeliveries_dataEv_fail {bs : List Byte} {w : List WireByte} :
    w ∈ evDeliveries (.dataEv bs .fail) ↔ ∃ pre, pre <+: bs ∧ w = pre.map .data := by
  simp only [evDeliveries, List.mem_map, List.mem_range]
  constructor
  · rintro ⟨n, -, rfl⟩
    exact ⟨bs.take n, List.take_prefix n bs, rfl⟩
  · rintro ⟨pre, hpre, rfl⟩
    refine ⟨pre.length, Nat.lt_succ_of_le hpre.length_le, ?_⟩
    rw [← List.prefix_iff_eq_take.mp hpre]

/-- Settles O50: one burst is its own event's streams, and two traces in a row combine theirs. -/
theorem failedBurstsDeliverAnyBeginning : Obligations.FailedBurstsDeliverAnyBeginning := by
  refine ⟨fun b w => ?_, fun bs w => ?_, fun b w => ?_, fun bs w => ?_, fun T U w => mem_deliveries_append⟩
  · rw [mem_deliveries_singleton]
    simp [evDeliveries]
  · rw [mem_deliveries_singleton, mem_evDeliveries_dataEv_fail]
  · rw [mem_deliveries_singleton]
    exact List.mem_singleton
  · rw [mem_deliveries_singleton]
    exact List.mem_singleton

end Sys2Proof.Machine
end

section
/-! The shape of the trace (R50, R201 to R204, R235): a check of a micro-program alone, before any answer is known, and
that every run of a program that passes it is read as one request, stopped by its first failure. -/

namespace Sys2Proof.Machine

/-- Whether an operation may run a primitive, `fed` when an accepted burst stands right before it: the channel, the
lines and the waits it has (R64, R110, R111, R202), and a data burst right behind an accepted burst only (R50). -/
def allowsPrim (op : OpName) (fed : Bool) : Prim → Bool
  | .cmd _ => mayTransport op
  | .data _ => fed
  | .pin line _ => mayDrive op line
  | .delay _ => mayDelay op
  | .setOrient _ => true

/-- Whether an accepted burst stands right before what follows a primitive. A cache write leaves no event. -/
def fedAfter (fed : Bool) : Prim → Bool
  | .cmd _ => true
  | .data _ => true
  | .pin _ _ => false
  | .delay _ => false
  | .setOrient _ => fed

/-- Whether an operation may run a micro-program, primitive by primitive. -/
def allowsProg (op : OpName) : Bool → List Prim → Bool
  | _, [] => true
  | fed, p :: ps => allowsPrim op fed p && allowsProg op (fedAfter fed p) ps

/-- A program in two parts: the second goes on where the first leaves off. -/
theorem allowsProg_append (op : OpName) (fed : Bool) (ps qs : List Prim) :
    allowsProg op fed (ps ++ qs) = (allowsProg op fed ps && allowsProg op (ps.foldl fedAfter fed) qs) := by
  induction ps generalizing fed with
  | nil => rfl
  | cons p ps ih => simp only [List.cons_append, allowsProg, List.foldl_cons, ih, Bool.and_assoc]

/-! ### The micro-programs pass the check -/

theorem hrst_allowed (cfg : Config) (rst : Option RstLine) : allowsProg .hardReset false (hrst cfg rst) = true := by
  cases rst <;> rfl

/-- The cache write of `init` stands behind the burst of step 6, and step 7 begins with a command (R112, R113). -/
theorem initCacheWrite_initAfterMadctl_allowed (cfg : Config) :
    allowsProg .init true (initCacheWrite cfg ++ initAfterMadctl cfg) = true := by
  rw [initCacheWrite]
  cases cfg.cachePolicy <;> rfl

theorem initProgram_allowed (cfg : Config) (rst : Option RstLine) (bl : Option BlLine) :
    allowsProg .init false (initProgram cfg rst bl) = true := by
  have hbefore : allowsProg .init false (initBeforeMadctl cfg rst bl) = true := by
    cases rst <;> cases bl <;> rfl
  have hfed : (initBeforeMadctl cfg rst bl).foldl fedAfter false = true := by
    cases rst <;> cases bl <;> rfl
  rw [initProgram_eq, allowsProg_append, hbefore, hfed]
  exact initCacheWrite_initAfterMadctl_allowed cfg

/-- Every operation's micro-program passes its check: `init` and `hard_reset` as above, the others by their bursts. -/
theorem progOf_allowed {i : Instr} {s : State} {ps : List Prim} (hp : progOf i s = some ps) :
    allowsProg (opNameOf i) false ps = true := by
  cases i with
  | new c r b => cases hp
  | release => cases hp
  | orientation => cases hp
  | hardReset => cases hp; exact hrst_allowed _ _
  | init => cases hp; exact initProgram_allowed _ _ _
  | setOrientation o => cases hp; rfl
  | setAddressWindow sx sy ex ey => cases hp; rfl
  | setPixel x y color => cases hp; rfl
  | setPixels sx sy ex ey colors => cases hp; rfl
  | writeRaw buf => cases hp; rfl

/-- An operation with a micro-program answers `Ok` when it runs through (R201). -/
theorem successForm_ok_of_progOf {i : Instr} {s : State} {ps : List Prim} (hp : progOf i s = some ps) :
    successForm (opNameOf i) .ok = true := by
  cases i with
  | release => cases hp
  | orientation => cases hp
  | new _ _ _ | hardReset | init | setOrientation _ | setAddressWindow _ _ _ _ | setPixel _ _ _
  | setPixels _ _ _ _ _ | writeRaw _ => rfl

/-! ### The reading over the events of one request -/

/-- Where the reading of a trace's shape stands at its end. -/
def phaseOf (T : List Ev) : Phase := T.foldl phaseEv .idle

theorem phaseOf_append (T U : List Ev) : phaseOf (T ++ U) = U.foldl phaseEv (phaseOf T) := List.foldl_append

theorem legalTrace_iff {T : List Ev} : LegalTrace T ↔ phaseOf T = .idle := Iff.rfl

theorem pinAns_of_pinErr_some {a : PinAns} {e : Err} (h : pinErr a = some e) : ∃ x, a = .fail x ∧ e = .pin x := by
  cases a with
  | ok => cases h
  | fail x => exact ⟨x, rfl, (Option.some.inj h).symm⟩

theorem eq_transport_of_chanErr {a : ChanAns} {e : Err} (h : chanErr a = some e) : e = .transport := by
  cases a with
  | ok => cases h
  | fail => exact (Option.some.inj h).symm

/-- An allowed primitive whose answer is OK leaves the request running. -/
theorem phase_okEvent {op : OpName} {fed : Bool} {p : Prim} (h : allowsPrim op fed p = true) :
    (okEvent p).foldl phaseEv (.running op fed) = .running op (fedAfter fed p) := by
  cases p with
  | cmd b => exact if_pos h
  | data bs => cases h; rfl
  | pin line lv => exact if_pos h
  | delay us => exact if_pos h
  | setOrient o => rfl

/-- An allowed primitive that raises puts the request behind that failure (R203). -/
theorem phase_primEvent_of_raise {op : OpName} {fed : Bool} {p : Prim} {s : State} {e : Err}
    (h : allowsPrim op fed p = true) (hr : primRaise p s = some e) :
    (primEvent p s).foldl phaseEv (.running op fed) = .failed e := by
  cases p with
  | cmd b =>
    cases eq_transport_of_chanErr hr
    rw [primEvent, chanAns_of_chanErr_some hr]
    exact if_pos h
  | data bs =>
    cases eq_transport_of_chanErr hr
    cases h
    rw [primEvent, chanAns_of_chanErr_some hr]
    rfl
  | pin line lv =>
    obtain ⟨x, hx, rfl⟩ := pinAns_of_pinErr_some hr
    rw [primEvent, hx]
    exact if_pos h
  | delay us => cases hr
  | setOrient o => cases hr

/-! ### Runs -/

/-- Where the reading stands behind a micro-program: still in the request, or behind the failure it ended with. -/
def phaseAfter (op : OpName) (fed : Bool) (ps : List Prim) : Option Err → Phase
  | none => .running op (ps.foldl fedAfter fed)
  | some e => .failed e

/-- The run of an allowed micro-program is read as going through or as stopping at its first failure (R203, R235). -/
theorem phaseOf_runPrims {op : OpName} {fed : Bool} {ps : List Prim} {s : State} (hps : allowsProg op fed ps = true)
    (hs : phaseOf s.trace = .running op fed) :
    phaseOf (runPrims ps s).1.trace = phaseAfter op fed ps (runPrims ps s).2 := by
  induction ps generalizing fed s with
  | nil => exact hs
  | cons p ps ih =>
    obtain ⟨hp, hrest⟩ := Bool.and_eq_true_iff.mp hps
    have hphase : phaseOf (stepPrim p s).1.trace = (primEvent p s).foldl phaseEv (.running op fed) := by
      rw [(stepPrim_done p s).trace, phaseOf_append, hs]
    cases hr : primRaise p s with
    | none =>
      rw [primEvent_of_no_raise hr, phase_okEvent hp] at hphase
      rw [runPrims_cons_ok _ hr]
      exact ih (s := advance (stepPrim p s).1) hrest hphase
    | some e =>
      rw [runPrims_cons_raise _ hr]
      exact hphase.trans (phase_primEvent_of_raise hp hr)

/-! ### Requests -/

/-- Between requests, the start of one puts the reading in it with no burst before. -/
theorem phaseOf_beginRequest {s : State} (op : OpName) (h : LegalTrace s.trace) :
    phaseOf (beginRequest op s).trace = .running op false := by
  rw [beginRequest_trace, phaseOf_append, legalTrace_iff.mp h]
  rfl

/-- The end of a running request with a result of its success form leaves a legal trace (R201). -/
theorem legalTrace_endRequest {op : OpName} {fed : Bool} {s : State} {r : Result}
    (hs : phaseOf s.trace = .running op fed) (hr : successForm op r = true) : LegalTrace (endRequest r s).trace := by
  rw [legalTrace_iff, endRequest_trace, phaseOf_append, hs]
  exact if_pos hr

/-- A failed request that ends with its own error leaves a legal trace (R203, R204). -/
theorem legalTrace_endRequest_error {s : State} {e : Err} (hs : phaseOf s.trace = .failed e) :
    LegalTrace (endRequest (.error e) s).trace := by
  rw [legalTrace_iff, endRequest_trace, phaseOf_append, hs]
  exact if_pos rfl

/-- A served micro-program leaves a legal trace, wherever it ended. -/
theorem legalTrace_finishRequest {i : Instr} {s : State} {ps : List Prim} (h : LegalTrace s.trace)
    (hp : progOf i s = some ps) :
    LegalTrace (finishRequest (runPrims ps (beginRequest (opNameOf i) s))).trace := by
  have hrun := phaseOf_runPrims (progOf_allowed hp) (phaseOf_beginRequest (opNameOf i) h)
  cases hx : runPrims ps (beginRequest (opNameOf i) s) with
  | mk t e =>
    rw [hx] at hrun
    cases e with
    | none => exact legalTrace_endRequest hrun (successForm_ok_of_progOf hp)
    | some e => exact legalTrace_endRequest_error hrun

theorem exec_keeps_legalTrace {i : Instr} {s t : State} (hs : LegalTrace s.trace) (h : exec i s = .next t) :
    LegalTrace t.trace := by
  obtain ⟨c, r, b, -, -, rfl⟩ | ⟨-, -, rfl⟩ | ⟨-, -, rfl⟩ | ⟨ps, hp, -, rfl⟩ := exec_cases h
  · have hnew : phaseOf (construct c r b (beginRequest .new s)).trace = .running .new false :=
      phaseOf_beginRequest .new hs
    exact legalTrace_endRequest hnew rfl
  · have hrelease : phaseOf { beginRequest .release s with life := .released }.trace = .running .release false :=
      phaseOf_beginRequest .release hs
    exact legalTrace_endRequest hrelease rfl
  · exact legalTrace_endRequest (phaseOf_beginRequest .orientation hs) rfl
  · exact legalTrace_finishRequest hs hp

/-- Settles O41: a step idles or serves a request, and every request adds one whole request to the trace. -/
theorem legalTraceIsKept : Obligations.LegalTraceIsKept := by
  intro s t hs h
  obtain ⟨-, rfl⟩ | ⟨_, rest, _, -, -, hexec⟩ := step_cases h
  · exact hs
  · have hs' : LegalTrace { s with reqs := rest }.trace := hs
    exact exec_keeps_legalTrace hs' hexec

end Sys2Proof.Machine
end

section
/-! The decoder against the encoder (R61 to R68): what the decoder reads is the frame of a well-formed request, and the
frame of a well-formed request reads back. -/

namespace Sys2Proof

open Sys2Proof.Machine

/-! ### The selector -/

/-- A frame that begins with an operation's selector is read by that operation's format (R63, R67). -/
theorem decode_selOf_cons (p : Ports) (op : OpName) (body : List Byte) :
    decode p (selOf op :: body) = decodeBody p op body := by
  simp only [decode, opOfSel_selOf]

/-- What decodes begins with the selector of an operation whose format reads the rest (R63, R67). -/
theorem exists_decodeBody_of_decode {p : Ports} {f : List Byte} {i : Instr} (h : decode p f = .ok i) :
    ∃ op body, f = selOf op :: body ∧ decodeBody p op body = .ok i := by
  cases f with
  | nil => cases h
  | cons sel body =>
    cases hop : opOfSel sel with
    | none => simp [decode, hop] at h
    | some op =>
      cases selOf_of_opOfSel hop
      exact ⟨op, body, rfl, (decode_selOf_cons p op body).symm.trans h⟩

/-! ### From the frame to the request -/

/-- A well-formed request of an operation has these operand bytes (R64). -/
structure Spells (op : OpName) (body : List Byte) (i : Instr) : Prop where
  wf : i.wf = true
  op : opNameOf i = op
  body : encodeBody i = body

theorem spells_of_decodeNone {i j : Instr} {body : List Byte} (hwf : i.wf = true) (hbody : encodeBody i = [])
    (h : decodeNone i body = .ok j) : Spells (opNameOf i) body j := by
  cases body with
  | nil => cases h; exact ⟨hwf, rfl, hbody⟩
  | cons _ _ => cases h

theorem spells_of_decodeNew {p : Ports} {body : List Byte} {i : Instr} (h : decodeNew p body = .ok i) :
    Spells .new body i := by
  unfold decodeNew at h
  split at h
  · split at h
    · rename_i hreserved
      cases h
      refine ⟨rfl, rfl, ?_⟩
      simp only [encodeBody, newFlags, Option.isSome_ite, flags_of_bits hreserved]
    · cases h
  · cases h

theorem spells_of_decodeOri {body : List Byte} {i : Instr} (h : decodeOri body = .ok i) :
    Spells .setOrientation body i := by
  unfold decodeOri at h
  split at h
  · split at h
    · rename_i hreserved
      cases h
      refine ⟨rfl, rfl, ?_⟩
      rw [encodeBody, orientCode_orientOfCode, ocode_of_code hreserved]
    · cases h
  · cases h

theorem spells_of_decodeWin {body : List Byte} {i : Instr} (h : decodeWin body = .ok i) :
    Spells .setAddressWindow body i := by
  unfold decodeWin at h
  split at h
  · cases h
    refine ⟨rfl, rfl, ?_⟩
    simp only [encodeBody, be16_of_u16]
    rfl
  · cases h

theorem spells_of_decodePix {body : List Byte} {i : Instr} (h : decodePix body = .ok i) :
    Spells .setPixel body i := by
  unfold decodePix at h
  split at h
  · cases h
    refine ⟨rfl, rfl, ?_⟩
    simp only [encodeBody, be16_of_u16]
    rfl
  · cases h

/-- The count bytes bound the colours, and the colours write back all of the bytes behind them (R64, R65). -/
theorem spells_of_decodePixs {body : List Byte} {i : Instr} (h : decodePixs body = .ok i) :
    Spells .setPixels body i := by
  unfold decodePixs at h
  split at h
  · split at h
    · rename_i hlength
      cases h
      obtain ⟨hbytes, hcount⟩ := colorBytes_colorsOf _ _ hlength
      refine ⟨?_, rfl, ?_⟩
      · rw [Instr.wf, hcount]
        exact decide_eq_true (count32_lt _ _ _ _)
      · rw [encodeBody, hbytes, hcount, be32_of_count32]
        simp only [be16_of_u16]
        rfl
    · cases h
  · cases h

theorem spells_of_decodeRaw {body : List Byte} {i : Instr} (h : decodeRaw body = .ok i) :
    Spells .writeRaw body i := by
  unfold decodeRaw at h
  split at h
  · split at h
    · rename_i hlength
      cases h
      refine ⟨?_, rfl, ?_⟩
      · rw [Instr.wf, hlength]
        exact decide_eq_true (count32_lt _ _ _ _)
      · rw [encodeBody, hlength, be32_of_count32]
        rfl
    · cases h
  · cases h

/-- Each format reads the operand bytes of a well-formed request of its operation. -/
theorem spells_of_decodeBody {p : Ports} {op : OpName} {body : List Byte} {i : Instr}
    (h : decodeBody p op body = .ok i) : Spells op body i := by
  cases op with
  | new => exact spells_of_decodeNew h
  | release => exact spells_of_decodeNone rfl rfl h
  | hardReset => exact spells_of_decodeNone rfl rfl h
  | init => exact spells_of_decodeNone rfl rfl h
  | orientation => exact spells_of_decodeNone rfl rfl h
  | setOrientation => exact spells_of_decodeOri h
  | setAddressWindow => exact spells_of_decodeWin h
  | setPixel => exact spells_of_decodePix h
  | setPixels => exact spells_of_decodePixs h
  | writeRaw => exact spells_of_decodeRaw h

/-- What decodes is the frame of the well-formed request it decodes to: no bit is dropped (R68). -/
theorem encode_of_decode {p : Ports} {f : List Byte} {i : Instr} (h : decode p f = .ok i) :
    i.wf = true ∧ encode i = f := by
  obtain ⟨op, body, rfl, hbody⟩ := exists_decodeBody_of_decode h
  obtain ⟨hwf, rfl, rfl⟩ := spells_of_decodeBody hbody
  exact ⟨hwf, rfl⟩

/-! ### From the request to the frame -/

/-- The ports carry every handle a request names (R64). -/
def Carries (p : Ports) : Instr → Prop
  | .new chan rst bl => chan = p.chan ∧ (∀ r ∈ rst, r = p.rst) ∧ ∀ b ∈ bl, b = p.bl
  | _ => True

theorem carries_encodePorts (i : Instr) : Carries (encodePorts i) i := by
  cases i with
  | new chan rst bl =>
    refine ⟨rfl, ?_, ?_⟩
    · rintro r ⟨⟩
      rfl
    · rintro b ⟨⟩
      rfl
  | release | hardReset | init | orientation | setOrientation _ | setAddressWindow _ _ _ _ | setPixel _ _ _
  | setPixels _ _ _ _ _ | writeRaw _ => trivial

/-- A line's handle is on its port when its presence bit says so (R64). -/
theorem ite_isSome_some {α : Type} {x : Option α} {a : α} (h : ∀ b ∈ x, b = a) :
    (if x.isSome then some a else none) = x := by
  cases x with
  | none => rfl
  | some b => rw [h b rfl]; rfl

theorem decodeNew_newFlags {p : Ports} {chan : Chan} {rst : Option RstLine} {bl : Option BlLine}
    (h : Carries p (.new chan rst bl)) : decodeNew p [newFlags rst bl] = .ok (.new chan rst bl) := by
  obtain ⟨rfl, hrst, hbl⟩ := h
  obtain ⟨hreserved, hbit0, hbit1⟩ := newFlags_bits rst bl
  rw [decodeNew, if_pos hreserved, hbit0, hbit1, ite_isSome_some hrst, ite_isSome_some hbl]

theorem decodeOri_orientCode (o : Orientation) : decodeOri [(orientCode o).setWidth 8] = .ok (.setOrientation o) := by
  cases o <;> rfl

theorem decodeWin_encodeBody (sx sy ex ey : U16) :
    decodeWin (encodeBody (.setAddressWindow sx sy ex ey)) = .ok (.setAddressWindow sx sy ex ey) := by
  simp [encodeBody, be16, decodeWin, u16_of_be16]

theorem decodePix_encodeBody (x y color : U16) :
    decodePix (encodeBody (.setPixel x y color)) = .ok (.setPixel x y color) := by
  simp [encodeBody, be16, decodePix, u16_of_be16]

theorem decodePixs_encodeBody {sx sy ex ey : U16} {colors : List U16} (h : colors.length < 2 ^ 32) :
    decodePixs (encodeBody (.setPixels sx sy ex ey colors)) = .ok (.setPixels sx sy ex ey colors) := by
  simp [encodeBody, be16, be32, decodePixs, u16_of_be16, count32_of_be32 h, colorsOf_colorBytes]

theorem decodeRaw_encodeBody {buf : List Byte} (h : buf.length < 2 ^ 32) :
    decodeRaw (encodeBody (.writeRaw buf)) = .ok (.writeRaw buf) := by
  simp [encodeBody, be32, decodeRaw, count32_of_be32 h]

/-- The frame of a well-formed request reads back, on any ports that carry its handles (R68). -/
theorem decode_encode {p : Ports} {i : Instr} (hwf : i.wf = true) (hp : Carries p i) :
    decode p (encode i) = .ok i := by
  rw [encode, decode_selOf_cons]
  cases i with
  | new chan rst bl => exact decodeNew_newFlags hp
  | release => rfl
  | hardReset => rfl
  | init => rfl
  | orientation => rfl
  | setOrientation o => exact decodeOri_orientCode o
  | setAddressWindow sx sy ex ey => exact decodeWin_encodeBody sx sy ex ey
  | setPixel x y color => exact decodePix_encodeBody x y color
  | setPixels sx sy ex ey colors => exact decodePixs_encodeBody (of_decide_eq_true hwf)
  | writeRaw buf => exact decodeRaw_encodeBody (of_decide_eq_true hwf)

/-- Settles O2, one direction from the request's frame and one from any frame that decodes. -/
theorem typedFormAndFrameAgree : Obligations.TypedFormAndFrameAgree :=
  ⟨fun i hwf => decode_encode hwf (carries_encodePorts i), fun _ _ _ h => encode_of_decode h⟩

end Sys2Proof
end

section
/-! Which frames decode, which are refused, and how their operand fields read (R63 to R66). -/

namespace Sys2Proof

open Sys2Proof.Machine

/-! ### The frames that decode -/

/-- The reserved bits of a `flags` or an `ocode` byte are 0 exactly in the values below 4 (R64). -/
theorem reserved_eq_zero_iff (b : Byte) : b.extractLsb' 2 6 = 0 ↔ b.toNat < 4 := by
  revert b
  decide

theorem newFlags_lt (rst : Option RstLine) (bl : Option BlLine) : (newFlags rst bl).toNat < 4 :=
  (reserved_eq_zero_iff _).mp (newFlags_bits rst bl).1

theorem ocode_lt (o : Orientation) : ((orientCode o).setWidth 8 : Byte).toNat < 4 :=
  (reserved_eq_zero_iff _).mp (ocode_reserved o)

/-- A `flags` byte without reserved bits spells a `new` (R64). -/
theorem exists_decode_new {flags : Byte} (p : Ports) (h : flags.toNat < 4) : ∃ i, decode p [0x01, flags] = .ok i :=
  ⟨_, if_pos ((reserved_eq_zero_iff flags).mpr h)⟩

/-- An `ocode` byte without reserved bits spells a `set_orientation` (R64). -/
theorem exists_decode_setOrientation {ocode : Byte} (p : Ports) (h : ocode.toNat < 4) :
    ∃ i, decode p [0x06, ocode] = .ok i :=
  ⟨_, if_pos ((reserved_eq_zero_iff ocode).mpr h)⟩

/-- An even number of bytes is that of so many 16-bit values (R13). -/
theorem exists_colorBytes {n : Nat} {w : List Byte} (h : w.length = 2 * n) :
    ∃ vs : List U16, vs.length = n ∧ colorBytes vs = w :=
  ⟨colorsOf w, (colorBytes_colorsOf n w h).2, (colorBytes_colorsOf n w h).1⟩

/-- Eight bytes are four window bounds (R64). -/
theorem exists_bounds {w : List Byte} (h : w.length = 8) :
    ∃ sx sy ex ey : U16, be16 sx ++ be16 sy ++ be16 ex ++ be16 ey = w := by
  obtain ⟨vs, hvs, rfl⟩ := exists_colorBytes (n := 4) h
  match vs, hvs with
  | [sx, sy, ex, ey], _ => exact ⟨sx, sy, ex, ey, rfl⟩

/-- Six bytes are a position and a colour (R64). -/
theorem exists_pixel {w : List Byte} (h : w.length = 6) : ∃ x y color : U16, be16 x ++ be16 y ++ be16 color = w := by
  obtain ⟨vs, hvs, rfl⟩ := exists_colorBytes (n := 3) h
  match vs, hvs with
  | [x, y, color], _ => exact ⟨x, y, color, rfl⟩

/-- Any count bytes with two colour bytes for each spell a `set_pixels` (R64). -/
theorem exists_decode_setPixels {w cs : List Byte} {a b c d : Byte} (p : Ports) (hw : w.length = 8)
    (hcs : cs.length = 2 * count32 a b c d) : ∃ i, decode p (0x09 :: (w ++ [a, b, c, d] ++ cs)) = .ok i := by
  obtain ⟨sx, sy, ex, ey, rfl⟩ := exists_bounds hw
  obtain ⟨colors, hcolors, rfl⟩ := exists_colorBytes hcs
  have hwf : (Instr.setPixels sx sy ex ey colors).wf = true := by
    rw [Instr.wf, hcolors]
    exact decide_eq_true (count32_lt a b c d)
  rw [← be32_of_count32, ← hcolors]
  exact ⟨_, decode_encode hwf trivial⟩

/-- Any count bytes with so many bytes behind them spell a `write_raw` (R64). -/
theorem exists_decode_writeRaw {buf : List Byte} {a b c d : Byte} (p : Ports) (hbuf : buf.length = count32 a b c d) :
    ∃ i, decode p (0x0A :: ([a, b, c, d] ++ buf)) = .ok i := by
  have hwf : (Instr.writeRaw buf).wf = true := by
    rw [Instr.wf, hbuf]
    exact decide_eq_true (count32_lt a b c d)
  rw [← be32_of_count32, ← hbuf]
  exact ⟨_, decode_encode hwf trivial⟩

/-- Settles O3: what decodes is the frame of a request, which has its operation's shape, and each shape is the frame of
one. -/
theorem exactlyTheTableFramesDecode : Obligations.ExactlyTheTableFramesDecode := by
  intro p f
  constructor
  · rintro ⟨i, h⟩
    obtain ⟨hwf, rfl⟩ := encode_of_decode h
    cases i with
    | new chan rst bl => exact .inl ⟨_, newFlags_lt rst bl, rfl⟩
    | release => exact .inr (.inl rfl)
    | hardReset => exact .inr (.inr (.inl rfl))
    | init => exact .inr (.inr (.inr (.inl rfl)))
    | orientation => exact .inr (.inr (.inr (.inr (.inl rfl))))
    | setOrientation o => exact .inr (.inr (.inr (.inr (.inr (.inl ⟨_, ocode_lt o, rfl⟩)))))
    | setAddressWindow sx sy ex ey =>
      exact .inr (.inr (.inr (.inr (.inr (.inr (.inl ⟨_, rfl, rfl⟩))))))
    | setPixel x y color =>
      exact .inr (.inr (.inr (.inr (.inr (.inr (.inr (.inl ⟨_, rfl, rfl⟩)))))))
    | setPixels sx sy ex ey colors =>
      refine .inr (.inr (.inr (.inr (.inr (.inr (.inr (.inr (.inl
        ⟨be16 sx ++ be16 sy ++ be16 ex ++ be16 ey, colorBytes colors, _, _, _, _, rfl, ?_, rfl⟩))))))))
      rw [colorBytes_length]
      exact congrArg (2 * ·) (count32_of_be32 (of_decide_eq_true hwf)).symm
    | writeRaw buf =>
      exact .inr (.inr (.inr (.inr (.inr (.inr (.inr (.inr (.inr
        ⟨buf, _, _, _, _, (count32_of_be32 (of_decide_eq_true hwf)).symm, rfl⟩))))))))
  · rintro (⟨flags, h, rfl⟩ | rfl | rfl | rfl | rfl | ⟨ocode, h, rfl⟩ | ⟨w, hw, rfl⟩ | ⟨w, hw, rfl⟩ |
      ⟨w, cs, a, b, c, d, hw, hcs, rfl⟩ | ⟨buf, a, b, c, d, hbuf, rfl⟩)
    · exact exists_decode_new p h
    · exact ⟨.release, rfl⟩
    · exact ⟨.hardReset, rfl⟩
    · exact ⟨.init, rfl⟩
    · exact ⟨.orientation, rfl⟩
    · exact exists_decode_setOrientation p h
    · obtain ⟨sx, sy, ex, ey, rfl⟩ := exists_bounds hw
      exact ⟨_, decode_encode (i := .setAddressWindow sx sy ex ey) rfl trivial⟩
    · obtain ⟨x, y, color, rfl⟩ := exists_pixel hw
      exact ⟨_, decode_encode (i := .setPixel x y color) rfl trivial⟩
    · exact exists_decode_setPixels p hw hcs
    · exact exists_decode_writeRaw p hbuf

/-- Settles O1: the vectors of `new` by evaluation on the ports, the others as the frames of the requests they name. -/
theorem specVectorsDecode : Obligations.SpecVectorsDecode := fun _ =>
  ⟨rfl, rfl,
    decode_encode (i := .setOrientation .orient60) rfl trivial,
    decode_encode (i := .setAddressWindow 0x0102 0x0304 0x0506 0x0708) rfl trivial,
    decode_encode (i := .setPixel 1 2 0xF800) rfl trivial,
    decode_encode (i := .setPixels 10 10 11 10 [0x1234, 0xABCD]) rfl trivial,
    decode_encode (i := .setPixels 0 0 0 0 []) rfl trivial,
    decode_encode (i := .writeRaw [0xFC, 0x00, 0x00]) rfl trivial,
    decode_encode (i := .writeRaw []) rfl trivial⟩

/-! ### The fields of a frame -/

/-- A colour's two bytes stand at twice its place, most significant first (R13, R64). -/
theorem colorBytes_getElem? {colors : List U16} {k : Nat} {v : U16} (h : colors[k]? = some v) :
    (colorBytes colors)[2 * k]? = some (v.extractLsb' 8 8) ∧
      (colorBytes colors)[2 * k + 1]? = some (v.extractLsb' 0 8) := by
  induction colors generalizing k with
  | nil => simp at h
  | cons c colors ih =>
    cases k with
    | zero => cases h; exact ⟨rfl, rfl⟩
    | succ k => exact ih h

theorem toNat_eq_bytes (v : U16) : v.toNat = (v.extractLsb' 8 8).toNat * 256 + (v.extractLsb' 0 8).toNat := by
  rw [← u16_toNat, u16_of_be16]

/-- Settles O5: bounds by their bytes, colours because the frame is the one their list is written as. -/
theorem operandFieldsAreBigEndian : Obligations.OperandFieldsAreBigEndian := by
  refine ⟨fun p a b c d e f g h => ⟨u16 a b, u16 c d, u16 e f, u16 g h, rfl, u16_toNat a b, u16_toNat c d,
    u16_toNat e f, u16_toNat g h⟩, fun p w n cs sx sy ex ey colors hw hn h => ?_⟩
  obtain ⟨-, hframe⟩ := encode_of_decode h
  have hbody : be16 sx ++ be16 sy ++ be16 ex ++ be16 ey ++ be32 colors.length ++ colorBytes colors = w ++ n ++ cs :=
    (List.cons.inj hframe).2
  obtain ⟨-, rfl⟩ := List.append_inj hbody (by simp [hw, hn])
  refine ⟨colorBytes_length colors, fun k hk => ?_⟩
  obtain ⟨hhi, hlo⟩ := colorBytes_getElem? (List.getElem?_eq_getElem hk)
  refine ⟨_, _, hhi, hlo, ?_⟩
  rw [List.getElem?_eq_getElem hk, ← toNat_eq_bytes]
  rfl

/-! ### The frames that are refused -/

/-- A waiting frame that spells no operation is refused, whatever the state (R66, log entry 12). -/
theorem step_of_not_decode {s : State} {r : Request} {rest : List Request} (hq : s.reqs = r :: rest)
    (h : ∀ i, decode r.ports r.frame ≠ .ok i) : step s = .refused .illegalRequest := by
  simp only [step, fetch_of_reqs_cons hq]
  cases hd : decode r.ports r.frame with
  | ok i => exact absurd hd (h i)
  | error e => rfl

/-- A `flags` byte with a reserved bit spells nothing (R66). -/
theorem decode_new_reserved {flags : Byte} (p : Ports) (h : 4 ≤ flags.toNat) :
    decode p [0x01, flags] = .error .reservedBits :=
  if_neg fun hreserved => absurd ((reserved_eq_zero_iff flags).mp hreserved) (Nat.not_lt.mpr h)

/-- An `ocode` byte with a reserved bit spells nothing (R66). -/
theorem decode_setOrientation_reserved {ocode : Byte} (p : Ports) (h : 4 ≤ ocode.toNat) :
    decode p [0x06, ocode] = .error .reservedBits :=
  if_neg fun hreserved => absurd ((reserved_eq_zero_iff ocode).mp hreserved) (Nat.not_lt.mpr h)

/-- A well-formed request's frame has the length of its format and count (R64, R67). -/
theorem encode_length {i : Instr} (hwf : i.wf = true) :
    (encode i).length = frameLength (formatOf (opNameOf i)) (encode i) := by
  cases i with
  | setPixels sx sy ex ey colors => exact Laws.FrameLength.setPixels sx sy ex ey colors hwf
  | writeRaw buf => exact Laws.FrameLength.writeRaw buf hwf
  | new _ _ _ | release | hardReset | init | orientation | setOrientation _ | setAddressWindow _ _ _ _
  | setPixel _ _ _ => rfl

/-- The selector of a frame that decodes is its request's, and its length is that of its format and count. -/
theorem frame_of_decode {p : Ports} {sel : Byte} {body : List Byte} {i : Instr} (h : decode p (sel :: body) = .ok i) :
    opOfSel sel = some (opNameOf i) ∧ (sel :: body).length = frameLength (formatOf (opNameOf i)) (sel :: body) := by
  obtain ⟨hwf, hframe⟩ := encode_of_decode h
  obtain ⟨rfl, -⟩ := List.cons.inj hframe
  rw [← hframe]
  exact ⟨opOfSel_selOf _, encode_length hwf⟩

/-- Settles O4: what decodes has a selector of the map, no reserved bit and its format's length. -/
theorem illegalFramesAreRefused : Obligations.IllegalFramesAreRefused := by
  intro s r rest hq hillegal
  refine step_of_not_decode hq fun i hd => ?_
  obtain hnil | ⟨sel, body, hf, hsel⟩ | ⟨flags, hf, hflags⟩ | ⟨ocode, hf, hocode⟩ | ⟨sel, body, op, hf, hop, hlength⟩ :=
    hillegal
  · rw [hnil] at hd
    cases hd
  · rw [hf] at hd
    obtain ⟨hop, -⟩ := frame_of_decode hd
    rw [(opOfSel_none_iff sel).mpr hsel] at hop
    cases hop
  · rw [hf, decode_new_reserved _ hflags] at hd
    cases hd
  · rw [hf, decode_setOrientation_reserved _ hocode] at hd
    cases hd
  · rw [hf] at hd hlength
    obtain ⟨hop', hlength'⟩ := frame_of_decode hd
    cases hop.symm.trans hop'
    exact hlength hlength'

end Sys2Proof
end

section
/-! A word of the opcode table placed as the next request (R61, R217). -/

namespace Sys2Proof.Machine

theorem decode_of_decodeTableWord {nbits w : Nat} {i : Instr} (h : decodeTableWord nbits w = some i) :
    decode tablePorts (frameOfWord nbits w) = .ok i := by
  unfold decodeTableWord at h
  cases hd : decode tablePorts (frameOfWord nbits w) with
  | ok j => rw [hd] at h; cases h; rfl
  | error e => rw [hd] at h; cases h

/-- Settles O8: the word's frame is the request the next step fetches, and the fetch leaves the state it was placed
in. -/
theorem tableWordRunsNext : Obligations.TableWordRunsNext := by
  intro s nbits w i h
  have hfetch : fetch (s.withFetchWord nbits w) = some (⟨frameOfWord nbits w, tablePorts⟩, s) :=
    fetch_of_reqs_cons rfl
  exact step_of_fetch_of_decode hfetch (decode_of_decodeTableWord h)

end Sys2Proof.Machine
end

section
/-! The lines of the assembler: what their frames decode to, and which numbers are operands (R64, R75, R76). -/

namespace Sys2Proof.Machine

/-! ### Lines -/

/-- A well-formed request reads back from its frame and its ports (R68). -/
theorem decode_requestOf {i : Instr} (hwf : i.wf = true) :
    decode (requestOf i).ports (requestOf i).frame = .ok i :=
  decode_encode hwf (carries_encodePorts i)

/-- The frames of a line decode, in order, to what the line reads as (R64, R75). -/
theorem map_decode_of_assembleRequests {p : Ports} {l : String} {rs : List Request}
    (h : assembleRequests p l = some rs) :
    ∃ is, assembleLine p l = some is ∧ rs.map (fun r => decode r.ports r.frame) = is.map .ok := by
  obtain ⟨is, hline, hwf, rfl⟩ := assembleRequests_eq_some.mp h
  refine ⟨is, hline, ?_⟩
  rw [List.map_map]
  exact List.map_congr_left fun i hi => decode_requestOf (hwf i hi)

/-- Settles O54, by induction on the lines. -/
theorem assembledLinesDecode : Obligations.AssembledLinesDecode := by
  intro p lines
  induction lines with
  | nil =>
    intro rs h
    cases h
    exact ⟨[], rfl, rfl⟩
  | cons l ls ih =>
    intro rs h
    obtain ⟨as, bs, hl, hls, rfl⟩ := assemble_cons_eq_some.mp h
    obtain ⟨is, hline, hdecode⟩ := map_decode_of_assembleRequests hl
    obtain ⟨iss, hlines, hdecodes⟩ := ih bs hls
    refine ⟨is :: iss, ?_, ?_⟩
    · rw [List.map_cons, List.map_cons, hline, hlines]
    · rw [List.map_append, List.flatten_cons, List.map_append, hdecode, hdecodes]

/-- Settles O52: the two lines are read by evaluation, and the expansion is its definition. -/
theorem pseudoInstructionsExpand : Obligations.PseudoInstructionsExpand :=
  ⟨fun _ => rfl, fun _ => rfl, fun _ _ _ _ _ => rfl⟩

/-! ### Numbers -/

theorem u16Of_eq {w : List Char} {n : Nat} (h : numberOf w = some n) :
    u16Of w = if n < 2 ^ 16 then some (BitVec.ofNat 16 n) else none := by
  rw [u16Of, h]

theorem byteOf_eq {w : List Char} {n : Nat} (h : numberOf w = some n) :
    byteOf w = if n < 2 ^ 8 then some (BitVec.ofNat 8 n) else none := by
  rw [byteOf, h]

/-- A number put into a word when it fits is left out exactly when it does not. -/
theorem ite_ofNat_eq_none {k n : Nat} : (if n < 2 ^ k then some (BitVec.ofNat k n) else none) = none ↔ 2 ^ k ≤ n := by
  rw [← Nat.not_lt]
  by_cases h : n < 2 ^ k <;> simp [h]

/-- A number put into a word when it fits is the word's value. -/
theorem toNat_of_ite_ofNat {k n : Nat} {v : BitVec k}
    (h : (if n < 2 ^ k then some (BitVec.ofNat k n) else none) = some v) : v.toNat = n := by
  split at h
  · rename_i hlt
    cases h
    exact (BitVec.toNat_ofNat n k).trans (Nat.mod_eq_of_lt hlt)
  · cases h

/-- Settles O53: an operand is its number when the number fits its word, and none otherwise. -/
theorem assemblerOperandRanges : Obligations.AssemblerOperandRanges := by
  intro w n h
  rw [u16Of_eq h, byteOf_eq h]
  exact ⟨ite_ofNat_eq_none, fun _ => toNat_of_ite_ofNat, ite_ofNat_eq_none, fun _ => toNat_of_ite_ofNat⟩

end Sys2Proof.Machine
end

section
/-! The response of each result (R62). -/

namespace Sys2Proof.Machine

/-- Settles O49: each response is its definition's row of R62. -/
theorem responseFrames : Obligations.ResponseFrames :=
  ⟨rfl, fun _ => rfl, fun _ _ _ => rfl, rfl, fun _ => rfl⟩

end Sys2Proof.Machine
end

section
/-! The controller commands of each operation (R71): those of its micro-program, as far as the run gets. -/

namespace Sys2Proof.Machine

/-! ### The events of a run -/

/-- The events a run of a micro-program leaves, given what it raised: the OK events of all of it, or those before some
primitive and that primitive's own (R30, R203). -/
def RunEvents (ps : List Prim) (evs : List Ev) : Option Err → Prop
  | none => evs = okEvents ps
  | some e => ∃ pre p post u, ps = pre ++ p :: post ∧ primRaise p u = some e ∧ evs = okEvents pre ++ primEvent p u

theorem RunEvents.eq_okEvents {ps : List Prim} {evs : List Ev} (h : RunEvents ps evs none) : evs = okEvents ps := h

theorem RunEvents.cons {p : Prim} {ps : List Prim} {evs : List Ev} {r : Option Err} (h : RunEvents ps evs r) :
    RunEvents (p :: ps) (okEvent p ++ evs) r := by
  cases r with
  | none => rw [h.eq_okEvents]; rfl
  | some e =>
    obtain ⟨pre, q, post, u, rfl, hraise, rfl⟩ := h
    exact ⟨p :: pre, q, post, u, rfl, hraise, (List.append_assoc _ _ _).symm⟩

theorem runPrims_events (ps : List Prim) (s : State) :
    ∃ evs, (runPrims ps s).1.trace = s.trace ++ evs ∧ RunEvents ps evs (runPrims ps s).2 := by
  induction ps generalizing s with
  | nil => exact ⟨[], (List.append_nil _).symm, rfl⟩
  | cons p ps ih =>
    have htrace := (stepPrim_done p s).trace
    cases hr : primRaise p s with
    | none =>
      rw [primEvent_of_no_raise hr] at htrace
      obtain ⟨evs, hevs, hrun⟩ := ih (advance (stepPrim p s).1)
      rw [advance_trace, htrace, List.append_assoc] at hevs
      rw [runPrims_cons_ok _ hr]
      exact ⟨okEvent p ++ evs, hevs, hrun.cons⟩
    | some e =>
      rw [runPrims_cons_raise _ hr]
      exact ⟨primEvent p s, htrace, [], p, ps, s, rfl, hr, rfl⟩

/-- The result a request ends with, given what its micro-program raised (R201, R203). -/
def resultOfRun : Option Err → Result
  | none => .ok
  | some e => .error e

/-- The new events of a request with a micro-program: its markers round those of the run (R28). -/
theorem exec_program_newEvents {i : Instr} {s t : State} {ps : List Prim} (hp : progOf i s = some ps)
    (h : exec i s = .next t) :
    ∃ evs r, newEvents s t = .beginEv (opNameOf i) :: evs ++ [.endEv (resultOfRun r)] ∧ RunEvents ps evs r := by
  rw [exec_program hp] at h
  obtain ⟨-, rfl⟩ := serveProgram_next h
  obtain ⟨evs, htrace, hrun⟩ := runPrims_events ps (beginRequest (opNameOf i) s)
  refine ⟨evs, _, newEvents_of_append ?_, hrun⟩
  rw [finishRequest_eq, endRequest_trace, htrace, beginRequest_trace]
  cases (runPrims ps (beginRequest (opNameOf i) s)).2 <;> simp [resultOfRun]

/-- A request without a micro-program leaves its markers alone (R100, R101, R140). -/
theorem exec_no_program_newEvents {i : Instr} {s t : State} (hp : progOf i s = none) (h : exec i s = .next t) :
    ∃ r, newEvents s t = [.beginEv (opNameOf i), .endEv r] := by
  obtain ⟨_, _, _, rfl, -, rfl⟩ | ⟨rfl, -, rfl⟩ | ⟨rfl, -, rfl⟩ | ⟨ps, hp', -⟩ := exec_cases h
  · exact ⟨.ok, newEvents_of_append (by simp [opNameOf])⟩
  · exact ⟨.okHandles s.chan s.rst s.bl, newEvents_of_append (by simp [opNameOf])⟩
  · exact ⟨.okOrientation s.orient, newEvents_of_append (by simp [opNameOf])⟩
  · rw [hp] at hp'
    cases hp'

/-! ### The readings of a run's events -/

/-- The commands of a primitive's event do not depend on its answer (R35). -/
theorem primEvent_commands (p : Prim) (s : State) :
    (primEvent p s).filterMap evCommand = (okEvent p).filterMap evCommand := by
  cases p <;> rfl

/-- A run sends the first of the micro-program's commands, all of them when it raises nothing. -/
theorem RunEvents.commands_prefix {ps : List Prim} {evs : List Ev} {r : Option Err} (h : RunEvents ps evs r) :
    evs.filterMap evCommand <+: (okEvents ps).filterMap evCommand := by
  cases r with
  | none => rw [h.eq_okEvents]
  | some e =>
    obtain ⟨pre, p, post, u, rfl, -, rfl⟩ := h
    refine ⟨(okEvents post).filterMap evCommand, ?_⟩
    simp [okEvents, primEvent_commands]

/-- A run touches the channel only where the micro-program has a burst. -/
theorem RunEvents.chanEvents_eq_nil {ps : List Prim} {evs : List Ev} {r : Option Err} (h : RunEvents ps evs r)
    (hps : chanEvents (okEvents ps) = []) : chanEvents evs = [] := by
  cases r with
  | none => rw [h.eq_okEvents, hps]
  | some e =>
    obtain ⟨pre, p, post, u, rfl, -, rfl⟩ := h
    rw [okEvents_append, chanEvents_append, List.append_eq_nil_iff] at hps
    obtain ⟨hpre, hrest⟩ := hps
    rw [okEvents, chanEvents_append, List.append_eq_nil_iff] at hrest
    rw [chanEvents_append, hpre]
    have hp := hrest.1
    cases p with
    | cmd b => cases hp
    | data bs => cases hp
    | pin line lv => rfl
    | delay us => rfl
    | setOrient o => rfl

theorem resultsOf_okEvents (ps : List Prim) : resultsOf (okEvents ps) = [] := by
  induction ps with
  | nil => rfl
  | cons p ps ih =>
    rw [okEvents, resultsOf_append, ih]
    cases p <;> rfl

/-- A run has no result of its own: the end of the request has it (R201). -/
theorem RunEvents.resultsOf_eq_nil {ps : List Prim} {evs : List Ev} {r : Option Err} (h : RunEvents ps evs r) :
    resultsOf evs = [] := by
  cases r with
  | none => rw [h.eq_okEvents, resultsOf_okEvents]
  | some e =>
    obtain ⟨pre, p, post, u, -, -, rfl⟩ := h
    rw [resultsOf_append, resultsOf_okEvents]
    cases p <;> rfl

/-! ### The commands of the micro-programs -/

theorem initCacheWrite_okEvents (cfg : Config) : okEvents (initCacheWrite cfg) = [] := by
  rw [initCacheWrite]
  cases cfg.cachePolicy <;> rfl

theorem hrst_chanEvents (cfg : Config) (rst : Option RstLine) : chanEvents (okEvents (hrst cfg rst)) = [] := by
  cases rst <;> rfl

theorem hrst_commands (cfg : Config) (rst : Option RstLine) : (okEvents (hrst cfg rst)).filterMap evCommand = [] := by
  cases rst <;> rfl

theorem initBeforeMadctl_commands (cfg : Config) (rst : Option RstLine) (bl : Option BlLine) :
    (okEvents (initBeforeMadctl cfg rst bl)).filterMap evCommand =
      [.swreset, .slpout, .pgam, .ngam, .pwr1, .pwr2, .vcom, .madctl].map cfg.opc := by
  cases rst <;> cases bl <;> rfl

theorem initProgram_commands (cfg : Config) (rst : Option RstLine) (bl : Option BlLine) :
    (okEvents (initProgram cfg rst bl)).filterMap evCommand = (commandsOf .init).map cfg.opc := by
  rw [initProgram_eq, okEvents_append, List.filterMap_append, initBeforeMadctl_commands, okEvents, okEvents_append,
    initCacheWrite_okEvents]
  rfl

/-- A micro-program that runs through sends the commands of its operation (R71). -/
theorem progOf_commands {i : Instr} {s : State} {ps : List Prim} (hp : progOf i s = some ps) :
    (okEvents ps).filterMap evCommand = (commandsOf (opNameOf i)).map Config.board.opc := by
  cases i with
  | new _ _ _ | release | orientation => cases hp
  | hardReset => cases hp; exact hrst_commands _ _
  | init => cases hp; exact initProgram_commands _ _ _
  | setOrientation _ | setAddressWindow _ _ _ _ | setPixel _ _ _ | setPixels _ _ _ _ _ | writeRaw _ => cases hp; rfl

/-- The one micro-program without commands has no burst at all: that of `hard_reset`. -/
theorem progOf_chanEvents {i : Instr} {s : State} {ps : List Prim} (hp : progOf i s = some ps)
    (h : commandsOf (opNameOf i) = []) : chanEvents (okEvents ps) = [] := by
  cases i with
  | new _ _ _ | release | orientation => cases hp
  | hardReset => cases hp; exact hrst_chanEvents _ _
  | init | setOrientation _ | setAddressWindow _ _ _ _ | setPixel _ _ _ | setPixels _ _ _ _ _ | writeRaw _ => cases h

theorem commandsOf_of_no_program {i : Instr} {s : State} (hp : progOf i s = none) : commandsOf (opNameOf i) = [] := by
  cases i with
  | new _ _ _ | release | orientation => rfl
  | hardReset | init | setOrientation _ | setAddressWindow _ _ _ _ | setPixel _ _ _ | setPixels _ _ _ _ _
  | writeRaw _ => cases hp

/-! ### The commands of an operation -/

theorem commandsOf_sent {op : OpName} {c : CommandName} (h : c ∈ commandsOf op) :
    c ∉ [CommandName.nop, .slpin, .invoff, .invon, .dispoff, .ramrd] := by
  revert c
  cases op <;> decide

/-- What a request with a micro-program sends. -/
theorem exec_program_commands {i : Instr} {s t : State} {ps : List Prim} (hp : progOf i s = some ps)
    (h : exec i s = .next t) :
    (commandsOf (opNameOf i) = [] → chanEvents (newEvents s t) = []) ∧
    (newEvents s t).filterMap evCommand <+: (commandsOf (opNameOf i)).map Config.board.opc ∧
    ((∀ e, resultsOf (newEvents s t) ≠ [.error e]) →
      (newEvents s t).filterMap evCommand = (commandsOf (opNameOf i)).map Config.board.opc) := by
  obtain ⟨evs, r, hnew, hrun⟩ := exec_program_newEvents hp h
  have hcommands : (newEvents s t).filterMap evCommand = evs.filterMap evCommand := by
    simp [hnew, evCommand, List.filterMap_cons]
  rw [hcommands, ← progOf_commands hp]
  refine ⟨fun hnone => ?_, hrun.commands_prefix, fun hok => ?_⟩
  · simp [hnew, hrun.chanEvents_eq_nil (progOf_chanEvents hp hnone)]
  · cases r with
    | none => rw [hrun.eq_okEvents]
    | some e =>
      refine absurd ?_ (hok e)
      simp [hnew, hrun.resultsOf_eq_nil, resultOfRun]

/-- Settles O45: a request without a micro-program has no list and no access, and one with a micro-program sends what
its run gets to. -/
theorem commandsPerOperation : Obligations.CommandsPerOperation := by
  refine ⟨fun op c hc => commandsOf_sent hc, fun i s t h => ?_⟩
  cases hp : progOf i s with
  | some ps => exact exec_program_commands hp h
  | none =>
    obtain ⟨r, hnew⟩ := exec_no_program_newEvents hp h
    rw [hnew, commandsOf_of_no_program hp]
    exact ⟨fun _ => rfl, List.prefix_rfl, fun _ => rfl⟩

end Sys2Proof.Machine
end

section
/-! The frame of a served request (R102): what every micro-program leaves alone, and what more is left alone by one
without pins, bursts or cache writes. -/

namespace Sys2Proof.Machine

/-! ### The frame of a micro-program -/

/-- The end of a request leaves every input alone, and the cache. -/
theorem finishRequest_inputs (x : State × Option Err) :
    (finishRequest x).chanIn = x.1.chanIn ∧ (finishRequest x).chanFree = x.1.chanFree ∧
    (finishRequest x).rstIn = x.1.rstIn ∧ (finishRequest x).rstFree = x.1.rstFree ∧
    (finishRequest x).blIn = x.1.blIn ∧ (finishRequest x).blFree = x.1.blFree ∧
    (finishRequest x).orient = x.1.orient := by
  simp [finishRequest_eq]

/-- A served micro-program changes the trace, the answers, the cache and `upc` at most. -/
theorem serveProgram_onlyAccessesAndCache {op : OpName} {ps : List Prim} {s t : State}
    (h : serveProgram op ps s = .next t) : OnlyAccessesAndCache s t := by
  obtain ⟨hlife, hchan, hrst, hbl, hreqs, hrefusals, -⟩ := serveProgram_frame h
  exact State.ext hlife hchan hrst hbl rfl rfl rfl hrefusals hreqs rfl rfl rfl rfl rfl rfl rfl

section
variable {op : OpName} {ps : List Prim} {s t : State}

theorem serveProgram_pins_untouched (h : serveProgram op ps s = .next t) (hpin : ∀ line lv, Prim.pin line lv ∉ ps) :
    t.rstIn = s.rstIn ∧ t.rstFree = s.rstFree ∧ t.blIn = s.blIn ∧ t.blFree = s.blFree := by
  obtain ⟨-, rfl⟩ := serveProgram_next h
  obtain ⟨-, -, hrstIn, hrstFree, hblIn, hblFree, -⟩ := finishRequest_inputs (runPrims ps (beginRequest op s))
  rw [hrstIn, hrstFree, hblIn, hblFree]
  exact runPrims_pins_untouched hpin (beginRequest op s)

theorem serveProgram_chan_untouched (h : serveProgram op ps s = .next t) (hcmd : ∀ b, Prim.cmd b ∉ ps)
    (hdata : ∀ bs, Prim.data bs ∉ ps) : t.chanIn = s.chanIn ∧ t.chanFree = s.chanFree := by
  obtain ⟨-, rfl⟩ := serveProgram_next h
  obtain ⟨hchanIn, hchanFree, -⟩ := finishRequest_inputs (runPrims ps (beginRequest op s))
  rw [hchanIn, hchanFree]
  exact runPrims_chan_untouched hcmd hdata (beginRequest op s)

theorem serveProgram_bl_untouched (h : serveProgram op ps s = .next t) (hpin : ∀ lv, Prim.pin .bl lv ∉ ps) :
    t.blIn = s.blIn ∧ t.blFree = s.blFree := by
  obtain ⟨-, rfl⟩ := serveProgram_next h
  obtain ⟨-, -, -, -, hblIn, hblFree, -⟩ := finishRequest_inputs (runPrims ps (beginRequest op s))
  rw [hblIn, hblFree]
  exact runPrims_bl_untouched hpin (beginRequest op s)

/-- The cache after a served micro-program is as it was or one its `SETORIENT`s wrote (R31). -/
theorem serveProgram_orient_cases (h : serveProgram op ps s = .next t) :
    t.orient = s.orient ∨ Prim.setOrient t.orient ∈ ps := by
  obtain ⟨-, rfl⟩ := serveProgram_next h
  obtain ⟨-, -, -, -, -, -, horient⟩ := finishRequest_inputs (runPrims ps (beginRequest op s))
  rw [horient]
  exact runPrims_orient_cases ps (beginRequest op s)

theorem serveProgram_orient_untouched (h : serveProgram op ps s = .next t) (hset : ∀ o, Prim.setOrient o ∉ ps) :
    t.orient = s.orient :=
  (serveProgram_orient_cases h).resolve_right (hset t.orient)

end

/-! ### The requests on the channel -/

theorem pin_notMem_win (cfg : Config) (sx sy ex ey : U16) (line : Line) (lv : Level) :
    Prim.pin line lv ∉ win cfg sx sy ex ey := by
  simp [win]

theorem pin_notMem_mw (cfg : Config) (payload : List Byte) (line : Line) (lv : Level) :
    Prim.pin line lv ∉ mw cfg payload := by
  simp [mw]

/-- Only `hard_reset` and `init` have a pin in their micro-program (R202). -/
theorem pin_notMem_progOf {i : Instr} {s : State} {ps : List Prim} (hp : progOf i s = some ps)
    (hhard : opNameOf i ≠ .hardReset) (hinit : opNameOf i ≠ .init) (line : Line) (lv : Level) : Prim.pin line lv ∉ ps := by
  cases i with
  | new _ _ _ | release | orientation => cases hp
  | hardReset => exact absurd rfl hhard
  | init => exact absurd rfl hinit
  | setOrientation o => cases hp; simp [seto]
  | setAddressWindow sx sy ex ey => cases hp; exact pin_notMem_win _ _ _ _ _ line lv
  | setPixel _ _ _ | setPixels _ _ _ _ _ =>
    cases hp
    exact List.mem_append.not.mpr (not_or.mpr ⟨pin_notMem_win _ _ _ _ _ line lv, pin_notMem_mw _ _ line lv⟩)
  | writeRaw buf => cases hp; exact pin_notMem_mw _ _ line lv

/-- A request whose micro-program has no pin changes the trace, the channel's answers, the cache and `upc` at most. -/
theorem exec_onlyChannelAndCache {i : Instr} {s t : State} {ps : List Prim} (hp : progOf i s = some ps)
    (hhard : opNameOf i ≠ .hardReset) (hinit : opNameOf i ≠ .init) (h : exec i s = .next t) : OnlyChannelAndCache s t := by
  rw [exec_program hp] at h
  obtain ⟨hrstIn, hrstFree, hblIn, hblFree⟩ := serveProgram_pins_untouched h (pin_notMem_progOf hp hhard hinit)
  exact Eq.trans (serveProgram_onlyAccessesAndCache h) (by rw [hrstIn, hrstFree, hblIn, hblFree])

/-- A request whose micro-program has neither pin nor cache write changes the trace, the channel's answers and `upc` at
most. -/
theorem exec_onlyChannel {i : Instr} {s t : State} {ps : List Prim} (hp : progOf i s = some ps)
    (hhard : opNameOf i ≠ .hardReset) (hinit : opNameOf i ≠ .init) (hset : opNameOf i ≠ .setOrientation)
    (h : exec i s = .next t) : OnlyChannel s t := by
  have honly := exec_onlyChannelAndCache hp hhard hinit h
  rw [exec_program hp] at h
  have horient := serveProgram_orient_untouched h (setOrient_notMem_progOf hp hset hinit)
  exact Eq.trans honly (by rw [horient])

/-- Settles O46: none of the five has a pin in its micro-program, and only `set_orientation` has a cache write. -/
theorem channelOperationsFrame : Obligations.ChannelOperationsFrame := by
  intro s t
  refine ⟨fun _ _ _ _ => ?_, fun _ _ _ => ?_, fun _ _ _ _ _ => ?_, fun _ => ?_, fun _ => ?_⟩
  · exact exec_onlyChannel rfl nofun nofun nofun
  · exact exec_onlyChannel rfl nofun nofun nofun
  · exact exec_onlyChannel rfl nofun nofun nofun
  · exact exec_onlyChannel rfl nofun nofun nofun
  · exact exec_onlyChannelAndCache rfl nofun nofun

/-! ### The requests on the lines, and those without I/O -/

/-- The reset pulse has no burst and no backlight pin (R110). -/
theorem cmd_notMem_hrst (cfg : Config) (rst : Option RstLine) (b : Byte) : Prim.cmd b ∉ hrst cfg rst := by
  cases rst <;> simp [hrst, guarded]

theorem data_notMem_hrst (cfg : Config) (rst : Option RstLine) (bs : List Byte) : Prim.data bs ∉ hrst cfg rst := by
  cases rst <;> simp [hrst, guarded]

theorem pin_bl_notMem_hrst (cfg : Config) (rst : Option RstLine) (lv : Level) : Prim.pin .bl lv ∉ hrst cfg rst := by
  cases rst <;> simp [hrst, guarded]

/-- `hard_reset` draws answers of the reset line alone and writes no cache (R110). -/
theorem exec_hardReset_onlyResetLine {s t : State} (h : exec .hardReset s = .next t) : OnlyResetLine s t := by
  have hserve : serveProgram .hardReset (hrst Config.board s.rst) s = .next t := h
  obtain ⟨hchanIn, hchanFree⟩ := serveProgram_chan_untouched hserve (cmd_notMem_hrst _ _) (data_notMem_hrst _ _)
  obtain ⟨hblIn, hblFree⟩ := serveProgram_bl_untouched hserve (pin_bl_notMem_hrst _ _)
  have horient := serveProgram_orient_untouched hserve (setOrient_notMem_hrst _ _)
  exact Eq.trans (serveProgram_onlyAccessesAndCache hserve) (by rw [hchanIn, hchanFree, hblIn, hblFree, horient])

/-- `orientation` runs on a Live block, and this is the state it leaves (R140). -/
theorem exec_orientation_next {s t : State} (h : exec .orientation s = .next t) :
    s.life = .live ∧ t = endRequest (.okOrientation s.orient) (beginRequest .orientation s) := by
  obtain ⟨_, _, _, hi, -⟩ | ⟨hi, -⟩ | ⟨-, hl, ht⟩ | ⟨_, hp, -⟩ := exec_cases h
  · cases hi
  · cases hi
  · exact ⟨hl, ht⟩
  · cases hp

/-- Settles O47: the micro-programs by what they draw, the other two by the state they leave. -/
theorem sequencerAndLifecycleFrame : Obligations.SequencerAndLifecycleFrame := by
  intro s t
  refine ⟨exec_hardReset_onlyResetLine, fun h => ?_, fun h => ?_, fun h => ?_⟩
  · exact serveProgram_onlyAccessesAndCache (op := .init) h
  · obtain ⟨-, rfl⟩ := exec_orientation_next h
    rfl
  · obtain ⟨-, rfl⟩ := exec_release_next h
    rfl

end Sys2Proof.Machine
end

section
/-! Construction and release (R100, R101), and the fields of a lifetime (R102). -/

namespace Sys2Proof.Machine

/-! ### `new` and `release` -/

theorem newFlags_eq_ofNat (r : Option RstLine) (b : Option BlLine) :
    newFlags r b = BitVec.ofNat 8 ((if r.isSome then 1 else 0) + (if b.isSome then 2 else 0)) := by
  cases r <;> cases b <;> simp [newFlags]

/-- The frame of `new`: its selector, and a flag for each line that is given (R64, R67). -/
theorem encode_new (c : Chan) (r : Option RstLine) (b : Option BlLine) :
    encode (.new c r b) = [0x01, BitVec.ofNat 8 ((if r.isSome then 1 else 0) + (if b.isSome then 2 else 0))] := by
  rw [← newFlags_eq_ofNat]
  rfl

/-- `new` runs on every block that is not Live (R100). -/
theorem exec_new_not_live {s : State} (c : Chan) (r : Option RstLine) (b : Option BlLine) (hl : s.life ≠ .live) :
    exec (.new c r b) s = .next (endRequest .ok (construct c r b (beginRequest .new s))) := by
  simp [exec, execNew, hl]

/-- `release` runs on every Live block (R101). -/
theorem exec_release_live {s : State} (hl : s.life = .live) :
    exec .release s =
      .next (endRequest (.okHandles s.chan s.rst s.bl) { beginRequest .release s with life := .released }) := by
  simp [exec, execRelease, hl]

/-- The markers of a request set no line (R23). -/
theorem lineLevel_markers (line : Line) (T : List Ev) (op : OpName) (r : Result) :
    lineLevel line (T ++ [.beginEv op, .endEv r]) = lineLevel line T := by
  rw [lineLevel_append]
  rfl

/-- Settles O9: the refusal and the state left are those of `new`'s two cases. -/
theorem newConstructsTheDriver : Obligations.NewConstructsTheDriver := by
  intro s c r b
  refine ⟨encode_new c r b, fun hl => ⟨_, exec_new_not_live c r b hl, ?_⟩, exec_new_live c r b⟩
  rw [List.append_cons s.trace]
  rfl

/-- Settles O10: the state left has two markers more, which set no line, and is not Live. -/
theorem releaseHandsBackTheHandles : Obligations.ReleaseHandsBackTheHandles := by
  intro s
  refine ⟨rfl, fun hl => ⟨_, exec_release_live hl, ?_, fun line => ?_, fun j hj => ?_⟩, fun hl => ?_⟩
  · rw [List.append_cons s.trace]
    rfl
  · simpa using lineLevel_markers line s.trace .release (.okHandles s.chan s.rst s.bl)
  · exact exec_not_live hj nofun
  · exact exec_not_live nofun hl

/-! ### The cache within a lifetime -/

/-- The one cache write of `init` is that of the default (R113). -/
theorem eq_of_setOrient_mem_initProgram {cfg : Config} {rst : Option RstLine} {bl : Option BlLine} {o : Orientation}
    (h : Prim.setOrient o ∈ initProgram cfg rst bl) : o = defaultOrientation := by
  have hwrite : Prim.setOrient o ∈ initCacheWrite cfg := by
    simpa [initProgram_eq, setOrient_notMem_initBeforeMadctl, setOrient_notMem_initAfterMadctl] using h
  rw [initCacheWrite] at hwrite
  cases hpolicy : cfg.cachePolicy with
  | setDefault => simpa [hpolicy] using hwrite
  | keep => simp [hpolicy] at hwrite

/-- A cache write is `set_orientation`'s of its operand or `init`'s of the default (R102). -/
theorem setOrient_mem_progOf {i : Instr} {s : State} {ps : List Prim} {o : Orientation} (hp : progOf i s = some ps)
    (h : Prim.setOrient o ∈ ps) : i = .setOrientation o ∨ i = .init ∧ o = defaultOrientation := by
  by_cases hset : opNameOf i = .setOrientation
  · cases i <;> cases hset
    cases hp
    left
    simpa [seto, eq_comm] using h
  by_cases hinit : opNameOf i = .init
  · cases i <;> cases hinit
    cases hp
    exact .inr ⟨rfl, eq_of_setOrient_mem_initProgram h⟩
  exact absurd h (setOrient_notMem_progOf hp hset hinit o)

/-- On a Live block only `set_orientation` and `init` write the cache, and only these values (R102). -/
theorem exec_orient_cases {i : Instr} {s t : State} (hl : s.life = .live) (h : exec i s = .next t) :
    t.orient = s.orient ∨ (∃ o, i = .setOrientation o ∧ t.orient = o) ∨ (i = .init ∧ t.orient = .orient00) := by
  obtain ⟨_, _, _, -, hnl, -⟩ | ⟨-, -, rfl⟩ | ⟨-, -, rfl⟩ | ⟨ps, hp, -⟩ := exec_cases h
  · exact absurd hl hnl
  · exact .inl rfl
  · exact .inl rfl
  · rw [exec_program hp] at h
    exact (serveProgram_orient_cases h).imp_right fun hmem =>
      (setOrient_mem_progOf hp hmem).imp_left fun hi => ⟨t.orient, hi, rfl⟩

/-- `upc` is no operand: every request writes it at its start, before anything reads it (R29). -/
theorem exec_upc_unread (i : Instr) (s : State) (n : Nat) : exec i { s with upc := n } = exec i s := by
  cases i with
  | new _ _ _ | release | orientation | hardReset | init | setOrientation _ | setAddressWindow _ _ _ _
  | setPixel _ _ _ | setPixels _ _ _ _ _ | writeRaw _ => rfl

/-- A request served on a Live block keeps the handles (R22, R102). -/
theorem exec_keeps_handles {i : Instr} {s t : State} (hl : s.life = .live) (h : exec i s = .next t) :
    t.chan = s.chan ∧ t.rst = s.rst ∧ t.bl = s.bl ∧ (t.life = s.life ∨ i = .release) := by
  by_cases hr : i = .release
  · subst hr
    rw [(exec_release_next h).2]
    exact ⟨rfl, rfl, rfl, .inr rfl⟩
  · obtain ⟨hlife, hchan, hrst, hbl⟩ := exec_keeps_holds ⟨hl, rfl, rfl, rfl⟩ hr h
    exact ⟨hchan, hrst, hbl, .inl (hlife.trans hl.symm)⟩

/-- Settles O14: the handles and the life, the cache, and `upc`, each by its own lemma. -/
theorem lifetimeFieldsAreConstant : Obligations.LifetimeFieldsAreConstant := by
  intro i s hl
  refine ⟨fun t h => ?_, exec_upc_unread i s⟩
  obtain ⟨hchan, hrst, hbl, hlife⟩ := exec_keeps_handles hl h
  exact ⟨hchan, hrst, hbl, hlife, exec_orient_cases hl h⟩

end Sys2Proof.Machine
end

section
/-! What `hard_reset` and `init` do (R110 to R118). First the tools: the first failure among the coming answers, a
micro-program stopped at a failing pin or at its burst number `k`, and how the readings of the trace go over it. -/

namespace Sys2Proof.Machine

/-! ### The first failure among the coming answers (R114) -/

/-- A property that fails below `n` has a first place where it fails. -/
theorem exists_first_not {P : Nat → Prop} {n : Nat} (h : ¬ ∀ k, k < n → P k) :
    ∃ k, k < n ∧ (∀ j, j < k → P j) ∧ ¬ P k := by
  classical
  obtain ⟨k, hk⟩ := not_forall.mp h
  obtain ⟨hlt, hnot⟩ := Classical.not_imp.mp hk
  have hex : ∃ k, ¬ P k := ⟨k, hnot⟩
  exact ⟨Nat.find hex, (Nat.find_min' hex hnot).trans_lt hlt, fun j hj => not_not.mp (Nat.find_min hex hj),
    Nat.find_spec hex⟩

theorem pinAns_eq_fail {a : PinAns} (h : a ≠ .ok) : ∃ e, a = .fail e := by
  cases a with
  | ok => exact absurd rfl h
  | fail e => exact ⟨e, rfl⟩

theorem chanAns_eq_fail {a : ChanAns} (h : a ≠ .ok) : a = .fail := by
  cases a with
  | ok => exact absurd rfl h
  | fail => rfl

/-- Pin answers that are not all OK have a first that fails. -/
theorem exists_first_pin_fail {f : Nat → PinAns} {n : Nat} (h : ¬ ∀ k, k < n → f k = .ok) :
    ∃ k e, k < n ∧ (∀ j, j < k → f j = .ok) ∧ f k = .fail e := by
  obtain ⟨k, hk, hok, hnot⟩ := exists_first_not h
  obtain ⟨e, he⟩ := pinAns_eq_fail hnot
  exact ⟨k, e, hk, hok, he⟩

theorem exists_firstFail {s : State} {n : Nat} (h : ¬ ChanOk s n) : ∃ k, k < n ∧ FirstFail s k := by
  obtain ⟨k, hk, hok, hnot⟩ := exists_first_not h
  exact ⟨k, hk, hok, chanAns_eq_fail hnot⟩

/-- The answers before the first failure are just those that are OK. -/
theorem chanOk_iff_of_firstFail {s : State} {k : Nat} (h : FirstFail s k) (n : Nat) : ChanOk s n ↔ n ≤ k := by
  obtain ⟨hok, hfail⟩ := h
  constructor
  · intro hn
    by_contra hlt
    rw [hn k (by omega)] at hfail
    cases hfail
  · exact fun hle j hj => hok j (by omega)

/-! ### A micro-program stopped by a pin (R110, R111, R114) -/

/-- The `k`-th answer a line is about to give. -/
def pinAnsAt (line : Line) (s : State) (k : Nat) : PinAns :=
  match line with
  | .rst => rstAnsAt s k
  | .bl => blAnsAt s k

/-- The answers of a line a micro-program draws. -/
def pinDraws (line : Line) (ps : List Prim) : Nat :=
  match line with
  | .rst => rstDraws ps
  | .bl => blDraws ps

/-- Behind a program that ran through, a line's next answer is the first it has not drawn. -/
theorem RanThrough.nextPinAns {ps : List Prim} {s t : State} (h : RanThrough ps s t) (line : Line) :
    pinAnsNext line t = pinAnsAt line s (pinDraws line ps) := by
  cases line with
  | rst => exact (h.rstAns 0).trans (by rw [Nat.zero_add]; rfl)
  | bl => exact (h.blAns 0).trans (by rw [Nat.zero_add]; rfl)

/-- A request whose first failure is a pin's: everything before it and its own event, its `Pin` error, and nothing
else (R46, R203). -/
theorem serveProgram_pin_fail {op : OpName} {ps : List Prim} {line : Line} {lv : Level} {e : PinErr} {s : State}
    (qs : List Prim) (hl : s.life = .live) (h : AnswersOk ps s) (hf : pinAnsAt line s (pinDraws line ps) = .fail e) :
    ∃ t, serveProgram op (ps ++ .pin line lv :: qs) s = .next t ∧
      t.trace = s.trace ++ .beginEv op :: (okEvents ps ++ [.pinEv line lv (.fail e)]) ++ [.endEv (.error (.pin e))] ∧
      t.orient = progOrient ps s.orient := by
  obtain ⟨t, r, ht⟩ := runPrims_fail (p := .pin line lv) qs (beginRequest_answers op s h)
  have hans : pinAnsNext line t = .fail e := by
    rw [r.nextPinAns, ← hf]
    cases line <;> rfl
  have hraise : primRaise (.pin line lv) t = some (.pin e) := by rw [primRaise, hans]; rfl
  have hdone := stepPrim_done (.pin line lv) t
  refine ⟨endRequest (.error (.pin e)) (stepPrim (.pin line lv) t).1,
    by rw [serveProgram_live _ _ hl, ht _ hraise, finishRequest_some], ?_, hdone.orient.trans r.orient⟩
  simp [hdone.trace, primEvent, hans, r.trace]

/-! ### A micro-program stopped at its burst number `k` -/

/-- Burst number `k` (0 the first) of a micro-program, between what comes before it and after it. -/
structure BurstAt (ps : List Prim) (k : Nat) (pre : List Prim) (p : Prim) (post : List Prim) : Prop where
  eq : ps = pre ++ p :: post
  burst : (primDraws p).1 = 1
  number : chanDraws pre = k

/-- A primitive is one burst or none. -/
theorem primDraws_chan (p : Prim) : (primDraws p).1 = 0 ∨ (primDraws p).1 = 1 := by
  cases p with
  | cmd b => exact .inr rfl
  | data bs => exact .inr rfl
  | pin line lv => cases line <;> exact .inl rfl
  | delay us => exact .inl rfl
  | setOrient o => exact .inl rfl

theorem BurstAt.cons {ps pre post : List Prim} {p : Prim} {k : Nat} (h : BurstAt ps k pre p post) (q : Prim) :
    BurstAt (q :: ps) ((primDraws q).1 + k) (q :: pre) p post :=
  ⟨by rw [h.eq]; rfl, h.burst, by rw [chanDraws_cons, h.number]⟩

theorem BurstAt.append_right {ps pre post : List Prim} {p : Prim} {k : Nat} (h : BurstAt ps k pre p post)
    (qs : List Prim) : BurstAt (ps ++ qs) k pre p (post ++ qs) :=
  ⟨by rw [h.eq]; simp, h.burst, h.number⟩

theorem BurstAt.append_left {ps pre post : List Prim} {p : Prim} {k : Nat} (h : BurstAt ps k pre p post)
    (qs : List Prim) : BurstAt (qs ++ ps) (chanDraws qs + k) (qs ++ pre) p post :=
  ⟨by rw [h.eq]; simp, h.burst, by rw [chanDraws_append, h.number]⟩

/-- A micro-program has as many bursts as it draws answers of the channel. -/
theorem exists_burstAt {ps : List Prim} {k : Nat} (hk : k < chanDraws ps) : ∃ pre p post, BurstAt ps k pre p post := by
  induction ps generalizing k with
  | nil => exact absurd hk (Nat.not_lt_zero k)
  | cons q ps ih =>
    rw [chanDraws_cons] at hk
    by_cases hq : (primDraws q).1 ≤ k
    · obtain ⟨pre, p, post, h⟩ := ih (k := k - (primDraws q).1) (by omega)
      have hcons := h.cons q
      rw [Nat.add_sub_cancel' hq] at hcons
      exact ⟨q :: pre, p, post, hcons⟩
    · have hburst := (primDraws_chan q).resolve_left (by omega)
      exact ⟨[], q, ps, rfl, hburst, by simp only [chanDraws]; omega⟩

/-- The events before burst number `k` of some primitives' events stay; the counting goes on behind them. -/
theorem upToBurst_okEvent_append (p : Prim) (T : List Ev) (k : Nat) :
    upToBurst (okEvent p ++ T) ((primDraws p).1 + k) = okEvent p ++ upToBurst T k := by
  rw [Nat.add_comm]
  cases p with
  | cmd b => rfl
  | data bs => rfl
  | pin line lv => cases line <;> rfl
  | delay us => rfl
  | setOrient o => rfl

theorem upToBurst_okEvents_append (ps : List Prim) (T : List Ev) (k : Nat) :
    upToBurst (okEvents ps ++ T) (chanDraws ps + k) = okEvents ps ++ upToBurst T k := by
  induction ps with
  | nil => simp [okEvents, chanDraws]
  | cons p ps ih =>
    rw [okEvents, chanDraws_cons, List.append_assoc, Nat.add_assoc, upToBurst_okEvent_append, ih, List.append_assoc]

/-- A burst that is number 0 is the last event, failed. -/
theorem upToBurst_okEvent_zero {p : Prim} (h : (primDraws p).1 = 1) (T : List Ev) :
    upToBurst (okEvent p ++ T) 0 = (okEvent p).map failed := by
  cases p with
  | cmd b => rfl
  | data bs => rfl
  | pin line lv => cases line <;> cases h
  | delay us => cases h
  | setOrient o => cases h

theorem BurstAt.upToBurst_okEvents {ps pre post : List Prim} {p : Prim} {k : Nat} (h : BurstAt ps k pre p post) :
    upToBurst (okEvents ps) k = okEvents pre ++ (okEvent p).map failed := by
  rw [h.eq, okEvents_append, okEvents, ← h.number, ← Nat.add_zero (chanDraws pre), upToBurst_okEvents_append,
    upToBurst_okEvent_zero h.burst]

/-- A request whose first failure is its burst number `k`: its events are the OK ones up to that burst, and its result
is `Transport` (R114, R203). -/
theorem serveProgram_stops_at_burst {op : OpName} {ps pre post : List Prim} {p : Prim} {k : Nat} {s : State}
    (hp : BurstAt ps k pre p post) (hl : s.life = .live) (h : AnswersOk pre s) (hf : chanAnsAt s k = .fail) :
    ∃ t, serveProgram op ps s = .next t ∧
      t.trace = s.trace ++ .beginEv op :: upToBurst (okEvents ps) k ++ [.endEv (.error .transport)] ∧
      t.orient = progOrient pre s.orient := by
  rw [hp.upToBurst_okEvents]
  obtain ⟨rfl, hburst, rfl⟩ := hp
  cases p with
  | cmd b =>
    obtain ⟨t, ht, htrace, horient, -⟩ :=
      serveProgram_burst_fail (op := op) (bs := []) post hl h hf (.inl ⟨rfl, rfl⟩)
    exact ⟨t, ht, by simp [htrace, okEvent, failed], horient⟩
  | data bs =>
    obtain ⟨t, ht, htrace, horient, -⟩ :=
      serveProgram_burst_fail (op := op) (b := 0) post hl h hf (.inr ⟨rfl, rfl⟩)
    exact ⟨t, ht, by simp [htrace, okEvent, failed], horient⟩
  | pin line lv => cases line <;> cases hburst
  | delay us => cases hburst
  | setOrient o => cases hburst

/-! ### The readings of the events -/

/-- The events up to burst number `k` show the channel its bursts up to that one (R117). -/
theorem chanEvents_upToBurst (T : List Ev) (k : Nat) : chanEvents (upToBurst T k) = upToFailure (chanEvents T) k := by
  induction T generalizing k with
  | nil => simp [upToBurst, upToFailure]
  | cons e T ih =>
    cases e with
    | beginEv _ | pinEv _ _ _ | delayEv _ | endEv _ => exact ih k
    | cmdEv b a =>
      cases k with
      | zero => rfl
      | succ k => exact congrArg (Ev.cmdEv b a :: ·) (ih k)
    | dataEv bs a =>
      cases k with
      | zero => rfl
      | succ k => exact congrArg (Ev.dataEv bs a :: ·) (ih k)

/-- Only the channel's events carry its bytes. -/
theorem channelBytes_chanEvents (T : List Ev) : channelBytes (chanEvents T) = channelBytes T := by
  induction T with
  | nil => rfl
  | cons e T ih =>
    cases e with
    | beginEv _ | pinEv _ _ _ | delayEv _ | endEv _ => exact ih
    | cmdEv b a => exact congrArg (b :: ·) ih
    | dataEv bs a => exact congrArg (bs ++ ·) ih

/-- The new events of a request are its markers and what stands between them (R28). -/
theorem newEvents_of_request {s t : State} {op : OpName} {T : List Ev} {r : Result}
    (h : t.trace = s.trace ++ .beginEv op :: T ++ [.endEv r]) : newEvents s t = .beginEv op :: (T ++ [.endEv r]) :=
  newEvents_of_append (by rw [h, List.append_assoc]; rfl)

/-- The level of a line after a request is the one its events give it, or the earlier one (R23). -/
theorem lineLevel_of_request {s t : State} {op : OpName} {T : List Ev} {r : Result}
    (h : t.trace = s.trace ++ .beginEv op :: T ++ [.endEv r]) (line : Line) :
    lineLevel line t.trace = (lineLevel line T).or (lineLevel line s.trace) := by
  have hmarkers : lineLevel line (.beginEv op :: T ++ [.endEv r]) = lineLevel line T := by
    simp [lineLevel, evLevel, List.filterMap_append, List.filterMap_cons]
  rw [h, List.append_assoc, lineLevel_append, hmarkers]

end Sys2Proof.Machine
end

section
/-! `hard_reset` (R110): the pulse, stopped at its first failing set, and the level it leaves the line at. -/

namespace Sys2Proof.Machine

theorem initPulse_eq (rst : Option RstLine) : initPulse rst = okEvents (hrst Config.board rst) := by
  cases rst <;> rfl

theorem rstDraws_hrst (cfg : Config) (rst : Option RstLine) :
    rstDraws (hrst cfg rst) = if rst.isSome then 3 else 0 := by
  cases rst <;> rfl

theorem blDraws_hrst (cfg : Config) (rst : Option RstLine) : blDraws (hrst cfg rst) = 0 := by
  cases rst <;> rfl

/-- The pulse writes no cache. -/
theorem progOrient_hrst (cfg : Config) (rst : Option RstLine) (o : Orientation) : progOrient (hrst cfg rst) o = o := by
  cases rst <;> rfl

/-- The pulse meets OK answers when its three sets do, or has none without a line. -/
theorem answersOk_hrst {s : State} (h : s.rst.isSome = true → RstOk s 3) (cfg : Config) :
    AnswersOk (hrst cfg s.rst) s := by
  refine ⟨fun k hk => ?_, fun k hk => ?_, fun k hk => ?_⟩
  · rw [chanDraws_hrst] at hk
    exact absurd hk (Nat.not_lt_zero k)
  · rw [rstDraws_hrst] at hk
    split at hk
    · exact h ‹_› k hk
    · exact absurd hk (Nat.not_lt_zero k)
  · rw [blDraws_hrst] at hk
    exact absurd hk (Nat.not_lt_zero k)

/-- A stretch of a program that draws answers of the reset line alone. -/
theorem answersOk_of_rstOk {ps : List Prim} {s : State} (h : RstOk s (rstDraws ps)) (hchan : chanDraws ps = 0)
    (hbl : blDraws ps = 0) : AnswersOk ps s :=
  ⟨fun k hk => absurd (hchan ▸ hk) (Nat.not_lt_zero k), h, fun k hk => absurd (hbl ▸ hk) (Nat.not_lt_zero k)⟩

/-- A request that begins with the pulse ends at the first of its sets that fails, whatever was to follow (R110,
R114). -/
theorem serveProgram_pulse_fail {op : OpName} {s : State} {k : Nat} {e : PinErr} (qs : List Prim)
    (hl : s.life = .live) (hk : k < 3) (hline : s.rst.isSome = true) (hok : RstOk s k) (hf : rstAnsAt s k = .fail e) :
    ∃ t, serveProgram op (hrst Config.board s.rst ++ qs) s = .next t ∧
      t.trace = s.trace ++ .beginEv op :: failedPulse e k ++ [.endEv (.error (.pin e))] ∧ t.orient = s.orient := by
  obtain ⟨r, hr⟩ := Option.isSome_iff_exists.mp hline
  rw [hr]
  match k with
  | 0 => exact serveProgram_pin_fail (ps := []) _ hl (answersOk_of_rstOk hok rfl rfl) hf
  | 1 => exact serveProgram_pin_fail (ps := [.pin .rst .high, .delay _]) _ hl (answersOk_of_rstOk hok rfl rfl) hf
  | 2 =>
    exact serveProgram_pin_fail (ps := [.pin .rst .high, .delay _, .pin .rst .low, .delay _]) _ hl
      (answersOk_of_rstOk hok rfl rfl) hf

/-! ### The events of the pulse by its answers -/

theorem pulseEvents_ok {s : State} (h : RstOk s 3) (us : Nat) :
    pulseEvents us (rstAnsAt s 0) (rstAnsAt s 1) (rstAnsAt s 2) =
      [.pinEv .rst .high .ok, .delayEv us, .pinEv .rst .low .ok, .delayEv us, .pinEv .rst .high .ok, .delayEv us] ++
        [.endEv .ok] := by
  rw [h 0 (by omega), h 1 (by omega), h 2 (by omega)]
  rfl

theorem pulseEvents_fail {s : State} {k : Nat} {e : PinErr} (hk : k < 3) (hok : RstOk s k)
    (hf : rstAnsAt s k = .fail e) :
    pulseEvents (resetPulseUs Config.board) (rstAnsAt s 0) (rstAnsAt s 1) (rstAnsAt s 2) =
      failedPulse e k ++ [.endEv (.error (.pin e))] := by
  match k with
  | 0 => rw [hf]; rfl
  | 1 => rw [hok 0 (by omega), hf]; rfl
  | 2 => rw [hok 0 (by omega), hok 1 (by omega), hf]; rfl

/-! ### The request -/

theorem exec_hardReset_ok {s : State} (hl : s.life = .live) (hok : s.rst.isSome = true → RstOk s 3) :
    ∃ t, exec .hardReset s = .next t ∧
      t.trace = s.trace ++ .beginEv .hardReset :: initPulse s.rst ++ [.endEv .ok] := by
  obtain ⟨t, ht, htrace, -⟩ := serveProgram_ok (op := .hardReset) hl (answersOk_hrst hok Config.board)
  exact ⟨t, ht, by rw [htrace, initPulse_eq]⟩

theorem exec_hardReset_fail {s : State} {k : Nat} {e : PinErr} (hl : s.life = .live) (hk : k < 3)
    (hline : s.rst.isSome = true) (hok : RstOk s k) (hf : rstAnsAt s k = .fail e) :
    ∃ t, exec .hardReset s = .next t ∧
      t.trace = s.trace ++ .beginEv .hardReset :: failedPulse e k ++ [.endEv (.error (.pin e))] := by
  obtain ⟨t, ht, htrace, -⟩ := serveProgram_pulse_fail (op := .hardReset) [] hl hk hline hok hf
  rw [List.append_nil] at ht
  exact ⟨t, ht, htrace⟩

/-- With a reset line the request has the events its line's three answers give it. -/
theorem exec_hardReset_pulse {s : State} (hl : s.life = .live) (hline : s.rst.isSome = true) :
    ∃ t, exec .hardReset s = .next t ∧ t.trace = s.trace ++ .beginEv .hardReset ::
      pulseEvents (resetPulseUs Config.board) (rstAnsAt s 0) (rstAnsAt s 1) (rstAnsAt s 2) := by
  by_cases hok : RstOk s 3
  · obtain ⟨t, ht, htrace⟩ := exec_hardReset_ok hl fun _ => hok
    refine ⟨t, ht, ?_⟩
    rw [htrace, pulseEvents_ok hok, initPulse, if_pos hline, List.append_assoc]
    rfl
  · obtain ⟨k, e, hk, hok, hf⟩ := exists_first_pin_fail (f := rstAnsAt s) hok
    obtain ⟨t, ht, htrace⟩ := exec_hardReset_fail hl hk hline hok hf
    refine ⟨t, ht, ?_⟩
    rw [htrace, pulseEvents_fail hk hok hf, List.append_assoc]
    rfl

/-- Without a reset line the request has its markers alone (R110). -/
theorem exec_hardReset_no_line {s : State} (hl : s.life = .live) (hline : s.rst = none) :
    exec .hardReset s = .next (endRequest .ok (beginRequest .hardReset s)) := by
  rw [exec_program (ps := []) (by rw [progOf, hline]; rfl), serveProgram_live _ _ hl]
  rfl

/-- Settles O16: without a line nothing but the markers, with one the events of the pulse, by its first failing set. -/
theorem hardResetPulsesTheLine : Obligations.HardResetPulsesTheLine := by
  intro s
  refine ⟨rfl, Nat.le_add_right _ _, fun hl => exec_not_live nofun hl, fun hl hline => ?_, fun hl hline => ?_⟩
  · refine ⟨_, exec_hardReset_no_line hl hline, ?_⟩
    rw [OnlyMarkers, List.append_cons s.trace]
    rfl
  · obtain ⟨t, ht, htrace⟩ := exec_hardReset_pulse hl (Option.isSome_iff_ne_none.mpr hline)
    exact ⟨t, ht, exec_hardReset_onlyResetLine ht, htrace⟩

/-! ### The level the line is left at (R23) -/

/-- The pulse sets no backlight line. -/
theorem lineLevel_bl_pulseEvents (us : Nat) (a0 a1 a2 : PinAns) : lineLevel .bl (pulseEvents us a0 a1 a2) = none := by
  cases a0 with
  | fail e => rfl
  | ok =>
    cases a1 with
    | fail e => rfl
    | ok => cases a2 <;> rfl

/-- What a request's level and result are when its pulse failed at set `k`. -/
theorem readings_of_failedPulse {s t : State} {op : OpName} {k : Nat} {e : PinErr}
    (h : t.trace = s.trace ++ .beginEv op :: failedPulse e k ++ [.endEv (.error (.pin e))]) :
    lineLevel .rst t.trace = (lineLevel .rst (failedPulse e k)).or (lineLevel .rst s.trace) ∧
      chanEvents (newEvents s t) = [] ∧ resultsOf (newEvents s t) = [.error (.pin e)] := by
  refine ⟨lineLevel_of_request h .rst, ?_, ?_⟩
  · rw [newEvents_of_request h]
    rcases k with _ | _ | k <;> rfl
  · rw [newEvents_of_request h]
    rcases k with _ | _ | k <;> rfl

/-- Settles O17: the levels of the successful pulse and of the pulse stopped at each of its three sets. -/
theorem hardResetLineLevels : Obligations.HardResetLineLevels := by
  intro s hl hline
  have hsome := Option.isSome_iff_ne_none.mpr hline
  obtain ⟨t, ht, htrace⟩ := exec_hardReset_pulse hl hsome
  have hfail {k : Nat} {e : PinErr} (hk : k < 3) (hok : RstOk s k) (hf : rstAnsAt s k = .fail e) :
      lineLevel .rst t.trace = (lineLevel .rst (failedPulse e k)).or (lineLevel .rst s.trace) ∧
        resultsOf (newEvents s t) = [.error (.pin e)] := by
    obtain ⟨u, hu, hutrace⟩ := exec_hardReset_fail hl hk hsome hok hf
    cases ht.symm.trans hu
    obtain ⟨hlevel, -, hresult⟩ := readings_of_failedPulse hutrace
    exact ⟨hlevel, hresult⟩
  refine ⟨t, ht, ?_, fun hok => ?_, fun e hf => ?_, fun e hok hf => ?_, fun e hok hf => ?_⟩
  · rw [htrace, lineLevel_append, ← List.singleton_append, lineLevel_append, lineLevel_bl_pulseEvents]
    rfl
  · obtain ⟨u, hu, hutrace⟩ := exec_hardReset_ok hl fun _ => hok
    cases ht.symm.trans hu
    rw [lineLevel_of_request hutrace, newEvents_of_request hutrace, initPulse, if_pos hsome]
    exact ⟨rfl, rfl⟩
  · exact hfail (k := 0) (by omega) (fun j hj => absurd hj (Nat.not_lt_zero j)) hf
  · exact hfail (k := 1) (by omega) hok hf
  · exact hfail (k := 2) (by omega) hok hf

end Sys2Proof.Machine
end

section
/-! `init` (R111 to R118): its micro-program in parts, the run with every answer OK, and the run stopped at a burst or
at a pin. -/

namespace Sys2Proof.Machine

/-! ### The micro-program in parts -/

/-- The pulse and the settle stand before what `init` does without lines. -/
theorem initProgram_eq_lines (cfg : Config) (rst : Option RstLine) (bl : Option BlLine) :
    initProgram cfg rst bl = hrst cfg rst ++ (bls bl ++ initProgram cfg none none) := by
  have hpulse : hrst cfg none = [] := rfl
  have hsettle : bls none = [] := rfl
  simp [initProgram, hpulse, hsettle]

/-- Its events as well: the pulse, the settle, and the rest (R112). -/
theorem initEvents_eq_lines (rst : Option RstLine) (bl : Option BlLine) :
    initEvents rst bl = initPulse rst ++ initSettle bl ++ initEvents none none := rfl

theorem initSettle_eq (bl : Option BlLine) : initSettle bl = okEvents (bls bl) := by
  cases bl <;> rfl

theorem chanDraws_bls (bl : Option BlLine) : chanDraws (bls bl) = 0 := by
  cases bl <;> rfl

theorem rstDraws_bls (bl : Option BlLine) : rstDraws (bls bl) = 0 := by
  cases bl <;> rfl

theorem blDraws_bls (bl : Option BlLine) : blDraws (bls bl) = if bl.isSome then 2 else 0 := by
  cases bl <;> rfl

/-- The cache write draws no answer. -/
theorem initCacheWrite_draws (cfg : Config) :
    chanDraws (initCacheWrite cfg) = 0 ∧ rstDraws (initCacheWrite cfg) = 0 ∧ blDraws (initCacheWrite cfg) = 0 := by
  rw [initCacheWrite]
  cases cfg.cachePolicy <;> exact ⟨rfl, rfl, rfl⟩

/-- Without lines `init` draws 30 answers of the channel and no other (R115). -/
theorem initProgram_no_lines_draws (cfg : Config) :
    chanDraws (initProgram cfg none none) = 30 ∧ rstDraws (initProgram cfg none none) = 0 ∧
      blDraws (initProgram cfg none none) = 0 := by
  simp [initProgram, hrst, bls, guarded, initStep5, initStep8, paramCommand, initCacheWrite_draws, chanDraws, rstDraws,
    blDraws, primDraws]

theorem chanDraws_initProgram (cfg : Config) (rst : Option RstLine) (bl : Option BlLine) :
    chanDraws (initProgram cfg rst bl) = 30 := by
  rw [initProgram_eq_lines, chanDraws_append, chanDraws_append, chanDraws_hrst, chanDraws_bls,
    (initProgram_no_lines_draws cfg).1]

theorem rstDraws_initProgram (cfg : Config) (rst : Option RstLine) (bl : Option BlLine) :
    rstDraws (initProgram cfg rst bl) = if rst.isSome then 3 else 0 := by
  rw [initProgram_eq_lines, rstDraws_append, rstDraws_append, rstDraws_hrst, rstDraws_bls,
    (initProgram_no_lines_draws cfg).2.1, Nat.add_zero]

theorem blDraws_initProgram (cfg : Config) (rst : Option RstLine) (bl : Option BlLine) :
    blDraws (initProgram cfg rst bl) = if bl.isSome then 2 else 0 := by
  rw [initProgram_eq_lines, blDraws_append, blDraws_append, blDraws_hrst, blDraws_bls,
    (initProgram_no_lines_draws cfg).2.2, Nat.zero_add, Nat.add_zero]

/-! ### Its events and its cache write -/

/-- With every answer OK the micro-program leaves the events of R112 with the waits of R118. -/
theorem okEvents_initProgram (rst : Option RstLine) (bl : Option BlLine) :
    okEvents (initProgram Config.board rst bl) = initEvents rst bl := by
  have hrest : okEvents (initProgram Config.board none none) = initEvents none none := by
    rw [initProgram_eq, okEvents_append, okEvents, okEvents_append, initCacheWrite_okEvents]
    rfl
  rw [initProgram_eq_lines, okEvents_append, okEvents_append, hrest, ← initPulse_eq, ← initSettle_eq,
    initEvents_eq_lines rst bl, List.append_assoc]

/-- The orientation `init` leaves where `n` of its bursts were accepted: the default from the 14th on under `SetDefault`
(R113). -/
def initOrient (n : Nat) (o : Orientation) : Orientation :=
  if Config.board.cachePolicy = .setDefault ∧ 14 ≤ n then .orient00 else o

/-- Without a cache write the orientation stays. -/
theorem progOrient_quiet {ps : List Prim} (h : ∀ o, Prim.setOrient o ∉ ps) (o : Orientation) : progOrient ps o = o := by
  induction ps generalizing o with
  | nil => rfl
  | cons p ps ih =>
    have hp : primOrient p o = o := by
      cases p with
      | setOrient o' => exact absurd List.mem_cons_self (h o')
      | cmd b => rfl
      | data bs => rfl
      | pin line lv => rfl
      | delay us => rfl
    exact (congrArg (progOrient ps) hp).trans (ih (fun o' hm => h o' (List.mem_cons_of_mem _ hm)) o)

theorem progOrient_initCacheWrite {n : Nat} (hn : 14 ≤ n) (o : Orientation) :
    progOrient (initCacheWrite Config.board) o = initOrient n o := by
  rw [initCacheWrite, initOrient]
  cases Config.board.cachePolicy with
  | setDefault => exact (if_pos ⟨rfl, hn⟩).symm
  | keep => exact (if_neg (fun h => nomatch h.1)).symm

/-- `init` up to its 14th burst, behind which the cache write stands. -/
def initThroughMadctl (cfg : Config) (rst : Option RstLine) (bl : Option BlLine) : List Prim :=
  initBeforeMadctl cfg rst bl ++ [.data [cfg.initMadctl]]

theorem initProgram_eq_throughMadctl (cfg : Config) (rst : Option RstLine) (bl : Option BlLine) :
    initProgram cfg rst bl = initThroughMadctl cfg rst bl ++ (initCacheWrite cfg ++ initAfterMadctl cfg) := by
  rw [initProgram_eq, initThroughMadctl, List.append_assoc]
  rfl

theorem chanDraws_initThroughMadctl (cfg : Config) (rst : Option RstLine) (bl : Option BlLine) :
    chanDraws (initThroughMadctl cfg rst bl) = 14 := by
  rw [initThroughMadctl, chanDraws_append, chanDraws_initBeforeMadctl]
  rfl

theorem setOrient_notMem_initThroughMadctl (cfg : Config) (rst : Option RstLine) (bl : Option BlLine)
    (o : Orientation) : Prim.setOrient o ∉ initThroughMadctl cfg rst bl := by
  simp [initThroughMadctl, setOrient_notMem_initBeforeMadctl]

/-- The cache behind `init`'s first 14 bursts and some of what follows its cache write. -/
theorem progOrient_behind_cacheWrite {rst : Option RstLine} {bl : Option BlLine} {ps : List Prim} {n : Nat}
    (hn : 14 ≤ n) (hps : ∀ o, Prim.setOrient o ∉ ps) (o : Orientation) :
    progOrient (initThroughMadctl Config.board rst bl ++ (initCacheWrite Config.board ++ ps)) o = initOrient n o := by
  rw [progOrient_append, progOrient_append, progOrient_quiet (setOrient_notMem_initThroughMadctl _ _ _),
    progOrient_initCacheWrite hn, progOrient_quiet hps]

/-- Burst number `k` of `init` stands where the cache has been written just when `14 ≤ k` (R113, R117). -/
theorem initProgram_burstAt (rst : Option RstLine) (bl : Option BlLine) {k : Nat} (hk : k < 30) :
    ∃ pre p post, BurstAt (initProgram Config.board rst bl) k pre p post ∧ ∀ o, progOrient pre o = initOrient k o := by
  rw [initProgram_eq_throughMadctl]
  have hthrough := chanDraws_initThroughMadctl Config.board rst bl
  by_cases h14 : k < 14
  · obtain ⟨pre, p, post, h⟩ := exists_burstAt (hthrough.symm ▸ h14)
    refine ⟨pre, p, _, h.append_right _, fun o => ?_⟩
    rw [initOrient, if_neg (fun h => absurd h.2 (by omega))]
    refine progOrient_quiet (fun o' hmem => setOrient_notMem_initThroughMadctl Config.board rst bl o' ?_) o
    rw [h.eq]
    exact List.mem_append_left _ hmem
  · have hafter : chanDraws (initAfterMadctl Config.board) = 16 := rfl
    obtain ⟨pre, p, post, h⟩ := exists_burstAt (ps := initAfterMadctl Config.board) (k := k - 14) (by omega)
    have hcache := (initCacheWrite_draws Config.board).1
    have hall := (h.append_left (initCacheWrite Config.board)).append_left (initThroughMadctl Config.board rst bl)
    rw [hthrough, hcache, Nat.zero_add, Nat.add_sub_cancel' (Nat.le_of_not_lt h14)] at hall
    refine ⟨_, p, post, hall, progOrient_behind_cacheWrite (Nat.le_of_not_lt h14) fun o' hmem => ?_⟩
    refine setOrient_notMem_initAfterMadctl Config.board o' ?_
    rw [h.eq]
    exact List.mem_append_left _ hmem

theorem progOrient_initProgram (rst : Option RstLine) (bl : Option BlLine) (o : Orientation) :
    progOrient (initProgram Config.board rst bl) o = initOrient 30 o := by
  rw [initProgram_eq_throughMadctl]
  exact progOrient_behind_cacheWrite (by omega) (setOrient_notMem_initAfterMadctl Config.board) o

/-! ### The run with every answer OK -/

/-- Answers enough for a beginning of `init`: its pins' and those of the bursts in it. -/
theorem answersOk_of_init_beginning {s : State} {pre post : List Prim}
    (h : initProgram Config.board s.rst s.bl = pre ++ post) (hpins : InitPinsOk s) (hchan : ChanOk s (chanDraws pre)) :
    AnswersOk pre s := by
  obtain ⟨hrst, hbl⟩ := hpins
  have hrstDraws := rstDraws_initProgram Config.board s.rst s.bl
  have hblDraws := blDraws_initProgram Config.board s.rst s.bl
  rw [h, rstDraws_append] at hrstDraws
  rw [h, blDraws_append] at hblDraws
  refine ⟨hchan, fun k hk => ?_, fun k hk => ?_⟩
  · split at hrstDraws
    · exact hrst ‹_› k (by omega)
    · omega
  · split at hblDraws
    · exact hbl ‹_› k (by omega)
    · omega

theorem exec_init_ok {s : State} (hl : s.life = .live) (hpins : InitPinsOk s) (hchan : ChanOk s 30) :
    ∃ t, exec .init s = .next t ∧ t.trace = s.trace ++ .beginEv .init :: initEvents s.rst s.bl ++ [.endEv .ok] ∧
      t.orient = initOrient 30 s.orient := by
  have hok := answersOk_of_init_beginning (List.append_nil _).symm hpins (by rwa [chanDraws_initProgram])
  obtain ⟨t, ht, htrace, horient, -⟩ := serveProgram_ok (op := .init) hl hok
  exact ⟨t, ht, by rw [htrace, okEvents_initProgram], by rw [horient, progOrient_initProgram]⟩

theorem exec_init_onlyAccessesAndCache {s t : State} (h : exec .init s = .next t) : OnlyAccessesAndCache s t :=
  serveProgram_onlyAccessesAndCache (op := .init) h

/-- Settles O18: the run with every answer OK, its cache by the policy. -/
theorem initRunsItsProgram : Obligations.InitRunsItsProgram := by
  intro s hl hpins hchan
  obtain ⟨t, ht, htrace, horient⟩ := exec_init_ok hl hpins hchan
  refine ⟨t, ht, exec_init_onlyAccessesAndCache ht, htrace, ?_⟩
  rw [horient, initOrient]
  cases Config.board.cachePolicy <;> rfl

/-! ### What the successful `init` shows -/

theorem chanEvents_initEvents (rst : Option RstLine) (bl : Option BlLine) :
    chanEvents (initEvents rst bl) = initBursts := by
  have hrest : chanEvents (initEvents none none) = initBursts := rfl
  rw [initEvents_eq_lines, chanEvents_append, chanEvents_append, hrest]
  cases rst <;> cases bl <;> rfl

/-- A command burst is one byte, a parameter string its own (R115). -/
theorem channelBytes_initBursts_length : (channelBytes initBursts).length =
    17 + (([.pgam, .ngam, .pwr1, .pwr2, .vcom].map fun p => (paramBytes (Config.board.param p)).length).sum + 2 +
      ([.ifmode, .frmctr, .invctr, .disctrl, .etmod, .adjctl3].map fun p =>
        (paramBytes (Config.board.param p)).length).sum) := by
  simp [initBursts, okCmd, okData, okParam, paramBytes]
  omega

/-- Settles O19: the projection of the events of R112, and its bytes burst by burst. -/
theorem initChannelProjection : Obligations.InitChannelProjection := by
  intro s hl hpins hchan
  obtain ⟨t, ht, htrace, -⟩ := exec_init_ok hl hpins hchan
  have hproj : chanEvents (newEvents s t) = initBursts := by
    simp [newEvents_of_request htrace, chanEvents_initEvents]
  refine ⟨t, ht, hproj, rfl, rfl, ?_, rfl⟩
  rw [← channelBytes_chanEvents, hproj, channelBytes_initBursts_length]

/-- The markers of a request are no pin events. -/
theorem pinEvents_of_request (op : OpName) (T : List Ev) (r : Result) :
    (.beginEv op :: (T ++ [.endEv r])).filter isPinEv = T.filter isPinEv := by
  simp [isPinEv]

theorem initEvents_pins (rst : Option RstLine) (bl : Option BlLine) :
    ((initEvents rst bl).filter isPinEv).length = (if rst.isSome then 3 else 0) + (if bl.isSome then 2 else 0) := by
  cases rst <;> cases bl <;> rfl

theorem delaysOf_initEvents (rst : Option RstLine) (bl : Option BlLine) :
    delaysOf (initEvents rst bl) = (if rst.isSome then List.replicate 3 (resetPulseUs Config.board) else []) ++
      (if bl.isSome then [10000] else []) ++ [150000, 10000, 10000, 10000] := by
  cases rst <;> cases bl <;> rfl

theorem length_initProgram (cfg : Config) (rst : Option RstLine) (bl : Option BlLine) :
    (initProgram cfg rst bl).length = 30 + 4 + (if rst.isSome then 6 else 0) + (if bl.isSome then 3 else 0) +
      (match cfg.cachePolicy with | .setDefault => 1 | .keep => 0) := by
  have hrst : (hrst cfg rst).length = if rst.isSome then 6 else 0 := by cases rst <;> rfl
  have hbl : (bls bl).length = if bl.isSome then 3 else 0 := by cases bl <;> rfl
  have hrest : (initProgram cfg none none).length =
      30 + 4 + (match cfg.cachePolicy with | .setDefault => 1 | .keep => 0) := by
    rw [initProgram_eq, initCacheWrite]
    cases cfg.cachePolicy <;> rfl
  rw [initProgram_eq_lines, List.length_append, List.length_append, hrst, hbl, hrest]
  omega

theorem length_initProgram_le (cfg : Config) (rst : Option RstLine) (bl : Option BlLine) :
    (initProgram cfg rst bl).length ≤ 44 := by
  rw [length_initProgram]
  have hpulse : (if rst.isSome then 6 else 0) ≤ 6 := by split <;> omega
  have hsettle : (if bl.isSome then 3 else 0) ≤ 3 := by split <;> omega
  cases cfg.cachePolicy <;> (dsimp only; omega)

/-- Settles O20: the readings of the events of R112, and the length of the micro-program part by part. -/
theorem initEventCounts : Obligations.InitEventCounts := by
  intro s hl hpins hchan
  obtain ⟨t, ht, htrace, -⟩ := exec_init_ok hl hpins hchan
  have hdelays : delaysOf (newEvents s t) = delaysOf (initEvents s.rst s.bl) := by
    simp [newEvents_of_request htrace]
  refine ⟨t, ht, ?_, ?_, ?_, length_initProgram _ _ _, length_initProgram_le _ _ _⟩
  · rw [newEvents_of_request htrace, pinEvents_of_request, initEvents_pins]
  · rw [hdelays, delaysOf_initEvents]
    cases s.rst <;> cases s.bl <;> rfl
  · rw [hdelays, delaysOf_initEvents]
    simp only [List.sum_append, apply_ite List.sum, List.sum_replicate, List.sum_cons, List.sum_nil, smul_eq_mul,
      Nat.add_zero]
    omega

theorem lineLevel_initEvents (rst : Option RstLine) (bl : Option BlLine) :
    lineLevel .rst (initEvents rst bl) = (if rst.isSome then some .high else none) ∧
      lineLevel .bl (initEvents rst bl) = (if bl.isSome then some .high else none) := by
  cases rst <;> cases bl <;> exact ⟨rfl, rfl⟩

/-- Settles O23: the events of R112 leave a line high if they set it at all. -/
theorem initLeavesTheLinesHigh : Obligations.InitLeavesTheLinesHigh := by
  intro s hl hpins hchan
  obtain ⟨t, ht, htrace, -⟩ := exec_init_ok hl hpins hchan
  obtain ⟨hrst, hbl⟩ := lineLevel_initEvents s.rst s.bl
  refine ⟨t, ht, ?_, ?_⟩
  · rw [lineLevel_of_request htrace, hrst]
    cases s.rst <;> rfl
  · rw [lineLevel_of_request htrace, hbl]
    cases s.bl <;> rfl

/-! ### The run stopped at a burst (R117) -/

theorem exec_init_burst_fail {s : State} {k : Nat} (hl : s.life = .live) (hk : k < 30) (hpins : InitPinsOk s)
    (hf : FirstFail s k) :
    ∃ t, exec .init s = .next t ∧
      t.trace = s.trace ++ .beginEv .init :: upToBurst (initEvents s.rst s.bl) k ++ [.endEv (.error .transport)] ∧
      t.orient = initOrient k s.orient := by
  obtain ⟨pre, p, post, hburst, hcache⟩ := initProgram_burstAt s.rst s.bl hk
  obtain ⟨hok, hfail⟩ := hf
  have hpre := answersOk_of_init_beginning hburst.eq hpins (by rwa [hburst.number])
  obtain ⟨t, ht, htrace, horient⟩ := serveProgram_stops_at_burst (op := .init) hburst hl hpre hfail
  rw [okEvents_initProgram] at htrace
  exact ⟨t, ht, htrace, horient.trans (hcache s.orient)⟩

/-- What stands before the first burst stays, whatever burst fails. -/
theorem upToBurst_initEvents (rst : Option RstLine) (bl : Option BlLine) (k : Nat) :
    upToBurst (initEvents rst bl) k = initPulse rst ++ initSettle bl ++ upToBurst (initEvents none none) k := by
  have h := upToBurst_okEvents_append (hrst Config.board rst ++ bls bl) (initEvents none none) k
  rw [chanDraws_append, chanDraws_hrst, chanDraws_bls, Nat.add_zero, Nat.zero_add, okEvents_append, ← initPulse_eq,
    ← initSettle_eq] at h
  exact h

/-- The waits of R118 behind the bursts, by how many bursts were accepted. -/
theorem delaysOf_upToBurst_no_lines : ∀ k < 30, delaysOf (upToBurst (initEvents none none) k) =
    (if 0 < k then [150000] else []) ++ (if 1 < k then [10000] else []) ++ (if 28 < k then [10000] else []) := by
  decide

/-- The events up to a burst hold no result. -/
theorem resultsOf_upToBurst_initEvents (rst : Option RstLine) (bl : Option BlLine) {k : Nat} (hk : k < 30) :
    resultsOf (upToBurst (initEvents rst bl) k) = [] := by
  obtain ⟨pre, p, post, hburst, -⟩ := initProgram_burstAt rst bl hk
  rw [← okEvents_initProgram, hburst.upToBurst_okEvents, resultsOf_append, resultsOf_okEvents]
  cases p <;> rfl

/-- The readings of an `init` stopped at burst number `k`. -/
theorem readings_of_init_burst_fail {s t : State} {k : Nat} (hk : k < 30)
    (h : t.trace = s.trace ++ .beginEv .init :: upToBurst (initEvents s.rst s.bl) k ++ [.endEv (.error .transport)]) :
    chanEvents (newEvents s t) = upToFailure initBursts k ∧ resultsOf (newEvents s t) = [.error .transport] ∧
      delaysOf (newEvents s t) = delaysOf (initPulse s.rst ++ initSettle s.bl) ++
        ((if 0 < k then [150000] else []) ++ (if 1 < k then [10000] else []) ++ (if 28 < k then [10000] else [])) := by
  rw [newEvents_of_request h]
  refine ⟨?_, ?_, ?_⟩
  · simp [chanEvents_upToBurst, chanEvents_initEvents]
  · simp [resultsOf_upToBurst_initEvents _ _ hk]
  · rw [← delaysOf_upToBurst_no_lines k hk, ← delaysOf_append, ← upToBurst_initEvents]
    simp

/-! ### The run stopped at a pin (R117) -/

theorem exec_init_pulse_fail {s : State} {k : Nat} {e : PinErr} (hl : s.life = .live) (hk : k < 3)
    (hline : s.rst.isSome = true) (hok : RstOk s k) (hf : rstAnsAt s k = .fail e) :
    ∃ t, exec .init s = .next t ∧ t.orient = s.orient ∧
      t.trace = s.trace ++ .beginEv .init :: failedPulse e k ++ [.endEv (.error (.pin e))] := by
  obtain ⟨t, ht, htrace, horient⟩ :=
    serveProgram_pulse_fail (op := .init) (bls s.bl ++ initProgram Config.board none none) hl hk hline hok hf
  rw [← initProgram_eq_lines] at ht
  exact ⟨t, ht, horient, htrace⟩

/-- Behind an accepted pulse, a stretch of the settle whose sets are OK. -/
theorem answersOk_hrst_append {s : State} {ps : List Prim} (hpulse : s.rst.isSome = true → RstOk s 3)
    (hchan : chanDraws ps = 0) (hnone : rstDraws ps = 0) (hbl : BlOk s (blDraws ps)) :
    AnswersOk (hrst Config.board s.rst ++ ps) s := by
  obtain ⟨hpc, hpr, hpb⟩ := answersOk_hrst hpulse Config.board
  refine ⟨?_, ?_, ?_⟩
  · rwa [chanDraws_append, hchan]
  · rwa [rstDraws_append, hnone]
  · rw [blDraws_append, blDraws_hrst, Nat.zero_add]
    exact hbl

/-- A set of the backlight line that fails behind an accepted pulse and a stretch of the settle. -/
theorem serveProgram_settle_pin_fail {s : State} {ps qs : List Prim} {lv : Level} {e : PinErr} (hl : s.life = .live)
    (hpulse : s.rst.isSome = true → RstOk s 3) (hchan : chanDraws ps = 0) (hnone : rstDraws ps = 0)
    (hset : ∀ o, progOrient ps o = o) (hbl : BlOk s (blDraws ps)) (hf : blAnsAt s (blDraws ps) = .fail e) :
    ∃ t, serveProgram .init (hrst Config.board s.rst ++ (ps ++ .pin .bl lv :: qs)) s = .next t ∧
      t.orient = s.orient ∧
      t.trace = s.trace ++ .beginEv .init :: initPulse s.rst ++ (okEvents ps ++ [.pinEv .bl lv (.fail e)]) ++
        [.endEv (.error (.pin e))] := by
  have hdraws : pinDraws .bl (hrst Config.board s.rst ++ ps) = blDraws ps := by
    rw [pinDraws, blDraws_append, blDraws_hrst, Nat.zero_add]
  obtain ⟨t, ht, htrace, horient⟩ := serveProgram_pin_fail (op := .init) (line := .bl) (lv := lv) (e := e) qs hl
    (answersOk_hrst_append hpulse hchan hnone hbl) (by rw [hdraws]; exact hf)
  refine ⟨t, by rw [← ht, List.append_assoc], ?_, ?_⟩
  · rw [horient, progOrient_append, hset, progOrient_hrst]
  · rw [htrace, okEvents_append, ← initPulse_eq]
    simp

theorem exec_init_settle_fail {s : State} {k : Nat} {e : PinErr} (hl : s.life = .live) (hk : k < 2)
    (hpulse : s.rst.isSome = true → RstOk s 3) (hline : s.bl.isSome = true) (hok : BlOk s k)
    (hf : blAnsAt s k = .fail e) :
    ∃ t, exec .init s = .next t ∧ t.orient = s.orient ∧
      t.trace = s.trace ++ .beginEv .init :: initPulse s.rst ++ failedSettle e k ++ [.endEv (.error (.pin e))] := by
  obtain ⟨b, hb⟩ := Option.isSome_iff_exists.mp hline
  rw [exec_program (i := .init) rfl, initProgram_eq_lines, hb]
  match k with
  | 0 => exact serveProgram_settle_pin_fail (ps := []) hl hpulse rfl rfl (fun _ => rfl) hok hf
  | 1 =>
    exact serveProgram_settle_pin_fail (ps := [.pin .bl .low, .delay _]) hl hpulse rfl rfl (fun _ => rfl) hok hf

theorem chanEvents_failedSettle (e : PinErr) (k : Nat) : chanEvents (failedSettle e k) = [] := by
  cases k <;> rfl

theorem resultsOf_failedSettle (e : PinErr) (k : Nat) : resultsOf (failedSettle e k) = [] := by
  cases k <;> rfl

/-- An `init` that meets a failing pin first: the channel sees nothing and the cache stays. -/
theorem exec_init_pin_fail {s : State} {e : PinErr} (hl : s.life = .live) (h : InitPinFails s e) :
    ∃ t, exec .init s = .next t ∧ chanEvents (newEvents s t) = [] ∧ resultsOf (newEvents s t) = [.error (.pin e)] ∧
      t.orient = s.orient := by
  obtain ⟨hline, k, hk, hok, hf⟩ | ⟨hrst, hline, k, hk, hok, hf⟩ := h
  · obtain ⟨t, ht, horient, htrace⟩ := exec_init_pulse_fail hl hk hline hok hf
    obtain ⟨-, hchan, hresult⟩ := readings_of_failedPulse htrace
    exact ⟨t, ht, hchan, hresult, horient⟩
  · obtain ⟨t, ht, horient, htrace⟩ := exec_init_settle_fail hl hk hrst hline hok hf
    rw [List.append_assoc s.trace, List.cons_append] at htrace
    refine ⟨t, ht, ?_, ?_, horient⟩
    · simp [newEvents_of_request htrace, initPulse_eq, hrst_chanEvents, chanEvents_failedSettle]
    · simp [newEvents_of_request htrace, initPulse_eq, resultsOf_okEvents, resultsOf_failedSettle]

/-- Settles O21: the run stopped at a burst, at a set of the pulse, at one of the settle, and at either. -/
theorem initFailurePosition : Obligations.InitFailurePosition := by
  intro s hl
  refine ⟨fun k hk hpins hf => ?_, fun k e hk hline hok hf => ?_, fun k e hk hrst hline hok hf => ?_,
    fun e he => exec_init_pin_fail hl he⟩
  · obtain ⟨t, ht, htrace, horient⟩ := exec_init_burst_fail hl hk hpins hf
    obtain ⟨hchan, hresult, hdelays⟩ := readings_of_init_burst_fail hk htrace
    exact ⟨t, ht, exec_init_onlyAccessesAndCache ht, htrace, hchan, hresult, hdelays, horient⟩
  · obtain ⟨t, ht, horient, htrace⟩ := exec_init_pulse_fail hl hk hline hok hf
    exact ⟨t, ht, exec_init_onlyAccessesAndCache ht, horient, htrace⟩
  · obtain ⟨t, ht, horient, htrace⟩ := exec_init_settle_fail hl hk hrst hline hok hf
    exact ⟨t, ht, exec_init_onlyAccessesAndCache ht, horient, htrace⟩

/-! ### The cache by the policy (R113) -/

/-- Pins that are not all OK have a first that fails. -/
theorem exists_initPinFails {s : State} (h : ¬ InitPinsOk s) : ∃ e, InitPinFails s e := by
  by_cases hrst : s.rst.isSome = true → RstOk s 3
  · have hbl : ¬ (s.bl.isSome = true → BlOk s 2) := fun hbl => h ⟨hrst, hbl⟩
    obtain ⟨hline, hnot⟩ := Classical.not_imp.mp hbl
    obtain ⟨k, e, hk, hok, hf⟩ := exists_first_pin_fail (f := blAnsAt s) hnot
    exact ⟨e, .inr ⟨hrst, hline, k, hk, hok, hf⟩⟩
  · obtain ⟨hline, hnot⟩ := Classical.not_imp.mp hrst
    obtain ⟨k, e, hk, hok, hf⟩ := exists_first_pin_fail (f := rstAnsAt s) hnot
    exact ⟨e, .inl ⟨hline, k, hk, hok, hf⟩⟩

/-- With its pins OK, `init` leaves the cache of as many accepted bursts as there are, to 30. -/
theorem exec_init_pinsOk_orient {s : State} (hl : s.life = .live) (hpins : InitPinsOk s) :
    ∃ t n, exec .init s = .next t ∧ t.orient = initOrient n s.orient ∧ (ChanOk s 14 ↔ 14 ≤ n) := by
  by_cases hchan : ChanOk s 30
  · obtain ⟨t, ht, -, horient⟩ := exec_init_ok hl hpins hchan
    exact ⟨t, 30, ht, horient, by omega, fun _ k hk => hchan k (by omega)⟩
  · obtain ⟨k, hk, hf⟩ := exists_firstFail hchan
    obtain ⟨t, ht, -, horient⟩ := exec_init_burst_fail hl hk hpins hf
    exact ⟨t, k, ht, horient, chanOk_iff_of_firstFail hf 14⟩

/-- The cache `init` leaves, whatever the answers. -/
theorem exec_init_orient {s : State} (hl : s.life = .live) :
    ∃ t, exec .init s = .next t ∧
      (Config.board.cachePolicy = .setDefault ∧ InitPinsOk s ∧ ChanOk s 14 → t.orient = .orient00) ∧
      (¬ (Config.board.cachePolicy = .setDefault ∧ InitPinsOk s ∧ ChanOk s 14) → t.orient = s.orient) := by
  by_cases hpins : InitPinsOk s
  · obtain ⟨t, n, ht, horient, hn⟩ := exec_init_pinsOk_orient hl hpins
    refine ⟨t, ht, fun ⟨hpolicy, _, hchan⟩ => ?_, fun h => ?_⟩
    · rw [horient, initOrient, if_pos ⟨hpolicy, hn.mp hchan⟩]
    · rw [horient, initOrient, if_neg fun ⟨hpolicy, hle⟩ => h ⟨hpolicy, hpins, hn.mpr hle⟩]
  · obtain ⟨e, he⟩ := exists_initPinFails hpins
    obtain ⟨t, ht, -, -, horient⟩ := exec_init_pin_fail hl he
    exact ⟨t, ht, fun ⟨_, h, _⟩ => absurd h hpins, fun _ => horient⟩

/-- Settles O22: the cache `init` leaves, read under each policy. -/
theorem initCachePolicy : Obligations.InitCachePolicy := by
  intro s hl
  obtain ⟨t, ht, hwritten, hkept⟩ := exec_init_orient hl
  refine ⟨t, ht, ?_⟩
  cases hpolicy : Config.board.cachePolicy with
  | setDefault => exact ⟨fun h => hwritten ⟨hpolicy, h⟩, fun h => hkept fun ⟨_, h'⟩ => h h'⟩
  | keep => exact hkept fun ⟨h, _⟩ => by rw [hpolicy] at h; cases h

end Sys2Proof.Machine
end

section
/-! `orientation` and `set_orientation` (R140 to R142): the cached answer, and the two bursts with their three cases. -/

namespace Sys2Proof.Machine

/-! ### `orientation` -/

/-- `orientation` runs on every Live block (R140). -/
theorem exec_orientation_live {s : State} (hl : s.life = .live) :
    exec .orientation s = .next (endRequest (.okOrientation s.orient) (beginRequest .orientation s)) := by
  simp [exec, execOrientation, hl]

/-- Its events are its markers: no I/O, and the answer is the cache. -/
theorem exec_orientation_newEvents {s t : State} (h : exec .orientation s = .next t) :
    newEvents s t = [.beginEv .orientation, .endEv (.okOrientation s.orient)] := by
  obtain ⟨-, rfl⟩ := exec_orientation_next h
  exact newEvents_of_append (by simp)

theorem exec_orientation_result {s t : State} (h : exec .orientation s = .next t) :
    resultsOf (newEvents s t) = [.okOrientation s.orient] := by
  rw [exec_orientation_newEvents h]
  rfl

/-- Settles O24: the state left has the two markers more, and the result in the second is the cache. -/
theorem orientationReadsTheCache : Obligations.OrientationReadsTheCache := by
  intro s
  refine ⟨rfl, fun hl => ⟨_, exec_orientation_live hl, ?_, ?_⟩, exec_not_live nofun⟩
  · rw [OnlyMarkers, List.append_cons s.trace]
    rfl
  · rw [responsesOf, exec_orientation_result (exec_orientation_live hl)]
    rfl

/-! ### `set_orientation` -/

/-- The two bursts of R141. -/
def orientationBursts (o : Orientation) : List Ev := [okCmd .madctl, okData [pat o]]

theorem okEvents_seto (o : Orientation) : okEvents (seto Config.board o) = orientationBursts o := rfl

/-- A stretch of a program that draws answers of the channel alone. -/
theorem answersOk_of_chanOk {ps : List Prim} {s : State} (h : ChanOk s (chanDraws ps)) (hrst : rstDraws ps = 0)
    (hbl : blDraws ps = 0) : AnswersOk ps s :=
  ⟨h, fun k hk => absurd (hrst ▸ hk) (Nat.not_lt_zero k), fun k hk => absurd (hbl ▸ hk) (Nat.not_lt_zero k)⟩

/-- Both bursts accepted: the cache is the new orientation (R142). -/
theorem exec_setOrientation_ok {s : State} {o : Orientation} (hl : s.life = .live) (hok : ChanOk s 2) :
    ∃ t, exec (.setOrientation o) s = .next t ∧
      t.trace = s.trace ++ .beginEv .setOrientation :: orientationBursts o ++ [.endEv .ok] ∧ t.orient = o := by
  obtain ⟨t, ht, htrace, horient, -⟩ := serveProgram_ok (op := .setOrientation) (ps := seto Config.board o) hl
    (answersOk_of_chanOk hok rfl rfl)
  rw [okEvents_seto] at htrace
  exact ⟨t, ht, htrace, horient⟩

/-- Each burst of R141 stands before the cache write. -/
theorem seto_burstAt (o : Orientation) {k : Nat} (hk : k < 2) :
    ∃ pre p post, BurstAt (seto Config.board o) k pre p post ∧ rstDraws pre = 0 ∧ blDraws pre = 0 ∧
      ∀ o', progOrient pre o' = o' := by
  match k with
  | 0 => exact ⟨[], _, _, ⟨rfl, rfl, rfl⟩, rfl, rfl, fun _ => rfl⟩
  | 1 => exact ⟨[_], _, _, ⟨rfl, rfl, rfl⟩, rfl, rfl, fun _ => rfl⟩

/-- A failing burst is the last, and the cache stays (R142, R203). -/
theorem exec_setOrientation_fail {s : State} {o : Orientation} {k : Nat} (hl : s.life = .live) (hk : k < 2)
    (hf : FirstFail s k) :
    ∃ t, exec (.setOrientation o) s = .next t ∧
      t.trace = s.trace ++ .beginEv .setOrientation :: upToBurst (orientationBursts o) k ++
        [.endEv (.error .transport)] ∧ t.orient = s.orient := by
  obtain ⟨pre, p, post, hburst, hrst, hbl, hcache⟩ := seto_burstAt o hk
  obtain ⟨hok, hfail⟩ := hf
  obtain ⟨t, ht, htrace, horient⟩ := serveProgram_stops_at_burst (op := .setOrientation) hburst hl
    (answersOk_of_chanOk (by rwa [hburst.number]) hrst hbl) hfail
  rw [okEvents_seto] at htrace
  exact ⟨t, ht, htrace, horient.trans (hcache s.orient)⟩

/-- What the channel saw, what was reported and what the cache holds when burst `k` failed. -/
theorem readings_of_setOrientation_fail {s t : State} {o : Orientation} {k : Nat} (hl : s.life = .live) (hk : k < 2)
    (hf : FirstFail s k) (ht : exec (.setOrientation o) s = .next t) :
    chanEvents (newEvents s t) = upToFailure (orientationBursts o) k ∧
      resultsOf (newEvents s t) = [.error .transport] ∧ t.orient = s.orient := by
  obtain ⟨u, hu, htrace, horient⟩ := exec_setOrientation_fail hl hk hf
  cases ht.symm.trans hu
  rw [newEvents_of_request htrace]
  refine ⟨?_, ?_, horient⟩
  · simp only [chanEvents_beginEv, chanEvents_append, chanEvents_upToBurst]
    exact List.append_nil _
  · match k with
    | 0 => rfl
    | 1 => rfl

/-- Settles O25: the run with both bursts accepted, stopped at the command and stopped at the data; the following
`orientation` answers the cache each leaves. -/
theorem setOrientationLaw : Obligations.SetOrientationLaw := by
  intro s o hl
  obtain ⟨t, ht⟩ : ∃ t, exec (.setOrientation o) s = .next t := ⟨_, serveProgram_live _ _ hl⟩
  obtain ⟨hlife, -⟩ := exec_keeps_lifetime (i := .setOrientation o) nofun nofun ht
  have hu := exec_orientation_live (hlife.trans hl)
  refine ⟨t, _, ht, hu, fun hok => ?_, fun hf => ?_, fun hf => ?_⟩ <;> rw [exec_orientation_result hu]
  · obtain ⟨v, hv, htrace, horient⟩ := exec_setOrientation_ok hl hok
    cases ht.symm.trans hv
    rw [newEvents_of_request htrace, horient]
    exact ⟨rfl, rfl, rfl⟩
  · have hfirst : FirstFail s 0 := ⟨fun j hj => absurd hj (Nat.not_lt_zero j), hf⟩
    obtain ⟨hchan, hresult, horient⟩ := readings_of_setOrientation_fail hl (by omega) hfirst ht
    exact ⟨hchan, hresult, by rw [horient]⟩
  · obtain ⟨hchan, hresult, horient⟩ := readings_of_setOrientation_fail hl (by omega) hf ht
    exact ⟨hchan, hresult, by rw [horient]⟩

end Sys2Proof.Machine
end

section
/-! Micro-programs of channel bursts alone: the run with every burst accepted, and the run that ends with burst number
`k`. -/

namespace Sys2Proof.Machine

/-- Each primitive of the micro-program is one channel burst: one answer of the channel, none of a line. -/
def OnlyBursts (ps : List Prim) : Prop := ∀ p ∈ ps, primDraws p = (1, 0, 0)

theorem onlyBursts_append {ps qs : List Prim} : OnlyBursts (ps ++ qs) ↔ OnlyBursts ps ∧ OnlyBursts qs :=
  List.forall_mem_append

theorem OnlyBursts.lineDraws {ps : List Prim} (h : OnlyBursts ps) : rstDraws ps = 0 ∧ blDraws ps = 0 := by
  induction ps with
  | nil => exact ⟨rfl, rfl⟩
  | cons p ps ih =>
    obtain ⟨hp, hps⟩ := List.forall_mem_cons.mp h
    rw [rstDraws_cons, blDraws_cons, hp, (ih hps).1, (ih hps).2]
    exact ⟨rfl, rfl⟩

theorem OnlyBursts.answersOk {ps : List Prim} {s : State} (h : OnlyBursts ps) (hok : ChanOk s (chanDraws ps)) :
    AnswersOk ps s :=
  answersOk_of_chanOk hok h.lineDraws.1 h.lineDraws.2

/-- The event of a burst is the channel's. -/
theorem isChanEv_okEvent {p : Prim} (hp : primDraws p = (1, 0, 0)) : ∀ e ∈ okEvent p, isChanEv e = true := by
  cases p with
  | cmd b => simp [okEvent, isChanEv]
  | data bs => simp [okEvent, isChanEv]
  | pin line lv => cases line <;> cases hp
  | delay us => cases hp
  | setOrient o => cases hp

theorem OnlyBursts.isChanEv_okEvents {ps : List Prim} (h : OnlyBursts ps) : ∀ e ∈ okEvents ps, isChanEv e = true := by
  induction ps with
  | nil => exact nofun
  | cons p ps ih =>
    obtain ⟨hp, hps⟩ := List.forall_mem_cons.mp h
    exact List.forall_mem_append.mpr ⟨isChanEv_okEvent hp, ih hps⟩

/-- Where every event is a burst, burst number `k` is event number `k`. -/
theorem upToBurst_eq_upToFailure {T : List Ev} (h : ∀ e ∈ T, isChanEv e = true) (k : Nat) :
    upToBurst T k = upToFailure T k := by
  induction T generalizing k with
  | nil => simp [upToBurst, upToFailure]
  | cons e T ih =>
    obtain ⟨he, hT⟩ := List.forall_mem_cons.mp h
    cases k with
    | zero => exact if_pos he
    | succ k => exact (if_pos he).trans (congrArg (e :: ·) (ih hT k))

section
variable {op : OpName} {ps : List Prim} {s : State}

/-- Every burst accepted: the markers round all the bursts, and `Ok`. -/
theorem OnlyBursts.serve_ok (h : OnlyBursts ps) (hl : s.life = .live) (hok : ChanOk s (chanDraws ps)) :
    ∃ t, serveProgram op ps s = .next t ∧ t.trace = s.trace ++ .beginEv op :: okEvents ps ++ [.endEv .ok] := by
  obtain ⟨t, ht, htrace, -⟩ := serveProgram_ok (op := op) hl (h.answersOk hok)
  exact ⟨t, ht, htrace⟩

/-- Burst number `k` fails first: the bursts up to that one, and `Transport` (R114, R203). -/
theorem OnlyBursts.serve_fail {k : Nat} (h : OnlyBursts ps) (hl : s.life = .live) (hk : k < chanDraws ps)
    (hf : FirstFail s k) :
    ∃ t, serveProgram op ps s = .next t ∧
      t.trace = s.trace ++ .beginEv op :: upToFailure (okEvents ps) k ++ [.endEv (.error .transport)] := by
  rw [← upToBurst_eq_upToFailure h.isChanEv_okEvents]
  obtain ⟨pre, p, post, hburst⟩ := exists_burstAt hk
  have hpre : OnlyBursts pre := (onlyBursts_append.mp (hburst.eq ▸ h)).1
  obtain ⟨hok, hfail⟩ := hf
  obtain ⟨t, ht, htrace, -⟩ := serveProgram_stops_at_burst (op := op) hburst hl
    (hpre.answersOk (by rwa [hburst.number])) hfail
  exact ⟨t, ht, htrace⟩

end

end Sys2Proof.Machine
end

section
/-! `set_address_window` (R150, R151) and the pixel count of a window (R152). -/

namespace Sys2Proof.Machine

/-! ### The six bursts of a window -/

/-- The two fields of `be16` are the quotient and the remainder by 256 (R13, R42). -/
theorem be16_eq_sent16 (v : U16) : be16 v = sent16 v := by
  have hhi : v.extractLsb' 8 8 = BitVec.ofNat 8 (v.toNat / 256) := by
    rw [BitVec.extractLsb', Nat.shiftRight_eq_div_pow]
  have hlo : v.extractLsb' 0 8 = BitVec.ofNat 8 (v.toNat % 256) := by
    apply BitVec.eq_of_toNat_eq
    simp
  rw [be16, sent16, hhi, hlo]

theorem win_onlyBursts (cfg : Config) (sx sy ex ey : U16) : OnlyBursts (win cfg sx sy ex ey) := by
  simp [OnlyBursts, win, primDraws]

theorem okEvents_win (sx sy ex ey : U16) : okEvents (win Config.board sx sy ex ey) = windowBursts sx sy ex ey := by
  simp only [win, be16_eq_sent16]
  rfl

theorem encode_setAddressWindow (sx sy ex ey : U16) :
    encode (.setAddressWindow sx sy ex ey) = 0x07 :: (sent16 sx ++ sent16 sy ++ sent16 ex ++ sent16 ey) := by
  simp only [← be16_eq_sent16]
  rfl

/-- Settles O29: the micro-program is six channel bursts, whose events are the bursts of R151; it touches the channel
alone. -/
theorem windowEmissionLaw : Obligations.WindowEmissionLaw := by
  intro s sx sy ex ey
  have hbursts := win_onlyBursts Config.board sx sy ex ey
  have honly : ∀ t, exec (.setAddressWindow sx sy ex ey) s = .next t → OnlyChannel s t := fun _ =>
    exec_onlyChannel rfl nofun nofun nofun
  refine ⟨encode_setAddressWindow sx sy ex ey, rfl, rfl, exec_not_live nofun, fun hl hok => ?_, fun k hk hl hf => ?_⟩ <;>
    rw [← okEvents_win]
  · obtain ⟨t, ht, htrace⟩ := hbursts.serve_ok (op := .setAddressWindow) hl hok
    exact ⟨t, ht, honly t ht, htrace⟩
  · obtain ⟨t, ht, htrace⟩ := hbursts.serve_fail (op := .setAddressWindow) hl hk hf
    exact ⟨t, ht, honly t ht, htrace⟩

/-! ### The pixel count of a window -/

/-- A window has a count just when its bounds are in order, and it is the count of the formula. -/
theorem pixelCount_eq_some {sx sy ex ey : U16} {n : Nat} :
    pixelCount sx sy ex ey = some n ↔ (sx.toNat ≤ ex.toNat ∧ sy.toNat ≤ ey.toNat) ∧
      (ex.toNat - sx.toNat + 1) * (ey.toNat - sy.toNat + 1) = n := by
  rw [pixelCount, Option.ite_none_right_eq_some, Option.some_inj]

/-- A side of a window is at most the 2^16 values of a bound. -/
theorem side_le (lo hi : U16) : hi.toNat - lo.toNat + 1 ≤ 2 ^ 16 := by
  have := hi.isLt
  omega

theorem one_le_area (sx sy ex ey : U16) : 1 ≤ (ex.toNat - sx.toNat + 1) * (ey.toNat - sy.toNat + 1) :=
  Nat.mul_pos (Nat.succ_pos _) (Nat.succ_pos _)

theorem area_le (sx sy ex ey : U16) : (ex.toNat - sx.toNat + 1) * (ey.toNat - sy.toNat + 1) ≤ 2 ^ 32 :=
  (Nat.mul_le_mul (side_le sx ex) (side_le sy ey)).trans_eq (Nat.pow_add 2 16 16).symm

/-- Settles O34: each side of a window is from 1 to 2^16. -/
theorem pixelCountIsUnbounded : Obligations.PixelCountIsUnbounded := by
  refine ⟨fun sx sy ex ey hx hy => ?_, fun sx sy ex ey n h => ?_, fun x y => ?_, ?_⟩
  · exact ⟨pixelCount_eq_some.mpr ⟨⟨hx, hy⟩, rfl⟩, one_le_area sx sy ex ey, area_le sx sy ex ey⟩
  · obtain ⟨-, rfl⟩ := pixelCount_eq_some.mp h
    exact ⟨one_le_area sx sy ex ey, area_le sx sy ex ey, rfl⟩
  · exact pixelCount_eq_some.mpr ⟨⟨le_rfl, le_rfl⟩, by simp⟩
  · exact pixelCount_eq_some.mpr (by decide)

end Sys2Proof.Machine
end

section
/-! pixel_stream_mux: the typed path (R160, R161), the raw path (R162), and what they share (R164). -/

namespace Sys2Proof.Machine

/-! ### A request of channel bursts alone -/

/-- A burst is neither a pin set nor a cache write. -/
theorem OnlyBursts.pin_notMem {ps : List Prim} (h : OnlyBursts ps) (line : Line) (lv : Level) :
    Prim.pin line lv ∉ ps := by
  intro hmem
  cases line <;> cases h _ hmem

theorem OnlyBursts.setOrient_notMem {ps : List Prim} (h : OnlyBursts ps) (o : Orientation) :
    Prim.setOrient o ∉ ps := fun hmem => nomatch h _ hmem

theorem OnlyBursts.onlyChannel {op : OpName} {ps : List Prim} {s t : State} (h : OnlyBursts ps)
    (ht : serveProgram op ps s = .next t) : OnlyChannel s t := by
  obtain ⟨hrstIn, hrstFree, hblIn, hblFree⟩ := serveProgram_pins_untouched ht h.pin_notMem
  have horient := serveProgram_orient_untouched ht h.setOrient_notMem
  exact Eq.trans (serveProgram_onlyAccessesAndCache ht) (by rw [hrstIn, hrstFree, hblIn, hblFree, horient])

/-- The channel sees the bursts between the markers. -/
theorem chanEvents_of_request {s t : State} {op : OpName} {T : List Ev} {r : Result}
    (h : t.trace = s.trace ++ .beginEv op :: T ++ [.endEv r]) : chanEvents (newEvents s t) = chanEvents T := by
  rw [newEvents_of_request h, chanEvents_beginEv, chanEvents_append]
  exact List.append_nil _

section
variable {ps : List Prim} {s : State}

/-- Every burst accepted: the channel sees each of them, in order. -/
theorem OnlyBursts.chanEvents_ok (h : OnlyBursts ps) (op : OpName) (hl : s.life = .live)
    (hok : ChanOk s (chanDraws ps)) :
    ∃ t, serveProgram op ps s = .next t ∧ chanEvents (newEvents s t) = okEvents ps := by
  obtain ⟨t, ht, htrace⟩ := h.serve_ok (op := op) hl hok
  exact ⟨t, ht, (chanEvents_of_request htrace).trans (List.filter_eq_self.mpr h.isChanEv_okEvents)⟩

/-- Whatever the answers, what the channel sees depends on the bursts alone, not on the operation that sends them. -/
theorem OnlyBursts.chanEvents_of_any_op (h : OnlyBursts ps) (hl : s.life = .live) :
    ∃ evs, ∀ op, ∃ t, serveProgram op ps s = .next t ∧ chanEvents (newEvents s t) = evs := by
  by_cases hok : ChanOk s (chanDraws ps)
  · exact ⟨okEvents ps, fun op => h.chanEvents_ok op hl hok⟩
  · obtain ⟨k, hk, hf⟩ := exists_firstFail hok
    refine ⟨chanEvents (upToFailure (okEvents ps) k), fun op => ?_⟩
    obtain ⟨t, ht, htrace⟩ := h.serve_fail (op := op) hl hk hf
    exact ⟨t, ht, chanEvents_of_request htrace⟩

end

/-! ### The memory write and the raw path -/

/-- The two bursts of R163. -/
def memoryWriteBursts (payload : List Byte) : List Ev := [okCmd .ramwr, okData payload]

theorem okEvents_mw (payload : List Byte) : okEvents (mw Config.board payload) = memoryWriteBursts payload := rfl

theorem mw_onlyBursts (cfg : Config) (payload : List Byte) : OnlyBursts (mw cfg payload) := by
  simp [OnlyBursts, mw, primDraws]

theorem memoryWriteBursts_bytes (payload : List Byte) :
    (channelBytes (memoryWriteBursts payload)).length = 1 + payload.length := by
  simp [memoryWriteBursts, okCmd, okData, Nat.add_comm]

/-- Settles O32: the micro-program is the memory write of the buffer, two channel bursts. -/
theorem writeRawEmission : Obligations.WriteRawEmission := by
  intro s buf
  have hbursts := mw_onlyBursts Config.board buf
  refine ⟨rfl, exec_not_live nofun, fun hl hok => ?_, fun k hk hl hf => ?_⟩
  · obtain ⟨t, ht, htrace⟩ := hbursts.serve_ok (op := .writeRaw) hl hok
    refine ⟨t, ht, hbursts.onlyChannel ht, ?_⟩
    rw [htrace, List.append_assoc]
    rfl
  · obtain ⟨t, ht, htrace⟩ := hbursts.serve_fail (op := .writeRaw) hl hk hf
    exact ⟨t, ht, hbursts.onlyChannel ht, htrace⟩

/-! ### The typed path -/

/-- The micro-program of R160 and R161: a window, then the memory write of the payload. -/
def typedProgram (sx sy ex ey : U16) (payload : List Byte) : List Prim :=
  win Config.board sx sy ex ey ++ mw Config.board payload

theorem exec_setPixel (s : State) (x y color : U16) :
    exec (.setPixel x y color) s = serveProgram .setPixel (typedProgram x y x y (sent16 color)) s := by
  rw [← be16_eq_sent16]
  rfl

/-- The payload of the typed path is the two bytes of each colour in turn (R161). -/
theorem colorBytes_eq_flatMap (colors : List U16) : colorBytes colors = colors.flatMap sent16 := by
  induction colors with
  | nil => rfl
  | cons c cs ih => rw [colorBytes, be16_eq_sent16, ih, List.flatMap_cons]

theorem exec_setPixels (s : State) (sx sy ex ey : U16) (colors : List U16) :
    exec (.setPixels sx sy ex ey colors) s =
      serveProgram .setPixels (typedProgram sx sy ex ey (colors.flatMap sent16)) s := by
  rw [← colorBytes_eq_flatMap]
  rfl

section
variable (sx sy ex ey : U16) (payload : List Byte)

theorem typedProgram_onlyBursts : OnlyBursts (typedProgram sx sy ex ey payload) :=
  onlyBursts_append.mpr ⟨win_onlyBursts _ _ _ _ _, mw_onlyBursts _ _⟩

theorem okEvents_typedProgram :
    okEvents (typedProgram sx sy ex ey payload) = windowBursts sx sy ex ey ++ memoryWriteBursts payload := by
  rw [typedProgram, okEvents_append, okEvents_win, okEvents_mw]

variable {sx sy ex ey payload} {op : OpName} {s : State}

/-- Every burst accepted: the window's, the memory-write command and the payload in one burst (R160, R161). -/
theorem serve_typedProgram_ok (hl : s.life = .live) (hok : ChanOk s 8) :
    ∃ t, serveProgram op (typedProgram sx sy ex ey payload) s = .next t ∧ OnlyChannel s t ∧
      t.trace = s.trace ++ .beginEv op :: windowBursts sx sy ex ey ++ [okCmd .ramwr, okData payload, .endEv .ok] := by
  have hbursts := typedProgram_onlyBursts sx sy ex ey payload
  obtain ⟨t, ht, htrace⟩ := hbursts.serve_ok (op := op) hl hok
  refine ⟨t, ht, hbursts.onlyChannel ht, ?_⟩
  rw [htrace, okEvents_typedProgram, List.append_assoc, List.append_assoc]
  rfl

/-- Burst number `k` fails first: the bursts up to that one (R114, R203). -/
theorem serve_typedProgram_fail {k : Nat} (hk : k < 8) (hl : s.life = .live) (hf : FirstFail s k) :
    ∃ t, serveProgram op (typedProgram sx sy ex ey payload) s = .next t ∧ OnlyChannel s t ∧
      t.trace = s.trace ++
        .beginEv op :: upToFailure (windowBursts sx sy ex ey ++ [okCmd .ramwr, okData payload]) k
        ++ [.endEv (.error .transport)] := by
  have hbursts := typedProgram_onlyBursts sx sy ex ey payload
  obtain ⟨t, ht, htrace⟩ := hbursts.serve_fail (op := op) hl hk hf
  rw [okEvents_typedProgram] at htrace
  exact ⟨t, ht, hbursts.onlyChannel ht, htrace⟩

end

theorem encode_setPixel (x y color : U16) :
    encode (.setPixel x y color) = 0x08 :: (sent16 x ++ sent16 y ++ sent16 color) := by
  simp only [← be16_eq_sent16]
  rfl

theorem encode_setPixels (sx sy ex ey : U16) (colors : List U16) :
    encode (.setPixels sx sy ex ey colors) =
      0x09 :: (sent16 sx ++ sent16 sy ++ sent16 ex ++ sent16 ey ++ be32 colors.length ++ colors.flatMap sent16) := by
  simp only [← be16_eq_sent16, ← colorBytes_eq_flatMap]
  rfl

/-- Settles O30: the typed path from a window of one pixel, with the two bytes of its colour. -/
theorem setPixelEmission : Obligations.SetPixelEmission := by
  intro s x y color
  refine ⟨encode_setPixel x y color, exec_not_live nofun, ?_, fun k => ?_⟩ <;> rw [exec_setPixel]
  · exact serve_typedProgram_ok
  · exact serve_typedProgram_fail

/-- Settles O31: the typed path with the bytes of every colour in one burst. -/
theorem setPixelsEmission : Obligations.SetPixelsEmission := by
  intro s sx sy ex ey colors
  refine ⟨encode_setPixels sx sy ex ey colors, exec_not_live nofun, ?_, fun k => ?_⟩ <;> rw [exec_setPixels]
  · exact serve_typedProgram_ok
  · exact serve_typedProgram_fail

/-! ### Equal sequences and their counts -/

/-- Ten bytes of window, the command and the payload (R164). -/
theorem typedBursts_bytes (sx sy ex ey : U16) (payload : List Byte) :
    (channelBytes (windowBursts sx sy ex ey ++ memoryWriteBursts payload)).length = 11 + payload.length := by
  have hwindow : (channelBytes (windowBursts sx sy ex ey)).length = 10 := rfl
  rw [channelBytes_append, List.length_append, hwindow, memoryWriteBursts_bytes]
  omega

/-- What the channel sees of a typed request with every burst accepted, and its counts. -/
theorem readings_of_typedProgram_ok {s : State} (op : OpName) (sx sy ex ey : U16) (payload : List Byte)
    (hl : s.life = .live) (hok : ChanOk s 8) :
    ∃ t, serveProgram op (typedProgram sx sy ex ey payload) s = .next t ∧
      chanEvents (newEvents s t) = windowBursts sx sy ex ey ++ memoryWriteBursts payload ∧
      (chanEvents (newEvents s t)).length = 8 ∧ (channelBytes (newEvents s t)).length = 11 + payload.length := by
  obtain ⟨t, ht, hchan⟩ := (typedProgram_onlyBursts sx sy ex ey payload).chanEvents_ok op hl hok
  rw [okEvents_typedProgram] at hchan
  refine ⟨t, ht, hchan, by rw [hchan]; rfl, ?_⟩
  rw [← channelBytes_chanEvents, hchan, typedBursts_bytes]

theorem flatMap_sent16_length (colors : List U16) : (colors.flatMap sent16).length = 2 * colors.length := by
  rw [← colorBytes_eq_flatMap, colorBytes_length]

/-- Settles O33: `set_pixel` and `set_pixels` of its one colour serve the same micro-program; with every burst accepted,
each operation's events and bytes are those of its window and its memory write. -/
theorem typedEmissionLaw : Obligations.TypedEmissionLaw := by
  refine ⟨fun s x y c hl => ?_, fun s x y c hl hok => ?_, fun s sx sy ex ey colors hl hok => ?_,
    fun s buf hl hok => ?_⟩
  · obtain ⟨evs, hevs⟩ := (typedProgram_onlyBursts x y x y (sent16 c)).chanEvents_of_any_op hl
    obtain ⟨t, ht, hchan⟩ := hevs .setPixel
    obtain ⟨u, hu, hchan'⟩ := hevs .setPixels
    exact ⟨t, u, (exec_setPixel s x y c).trans ht, (exec_setPixels s x y x y [c]).trans hu, hchan.trans hchan'.symm⟩
  · obtain ⟨t, ht, hchan, hevents, hbytes⟩ := readings_of_typedProgram_ok .setPixel x y x y (sent16 c) hl hok
    have hwindow : ChanOk s 6 := fun k hk => hok k (by omega)
    obtain ⟨w, hw, hchanw⟩ := (win_onlyBursts Config.board x y x y).chanEvents_ok .setAddressWindow hl hwindow
    rw [okEvents_win] at hchanw
    exact ⟨t, w, (exec_setPixel s x y c).trans ht, hw, hchanw.symm ▸ hchan, hevents, hbytes⟩
  · obtain ⟨t, ht, -, hevents, hbytes⟩ :=
      readings_of_typedProgram_ok .setPixels sx sy ex ey (colors.flatMap sent16) hl hok
    rw [flatMap_sent16_length] at hbytes
    exact ⟨t, (exec_setPixels s sx sy ex ey colors).trans ht, hevents, hbytes⟩
  · obtain ⟨t, ht, hchan⟩ := (mw_onlyBursts Config.board buf).chanEvents_ok .writeRaw hl hok
    rw [okEvents_mw] at hchan
    refine ⟨t, ht, by rw [hchan]; rfl, ?_⟩
    rw [← channelBytes_chanEvents, hchan, memoryWriteBursts_bytes]

end Sys2Proof.Machine
end

section
/-! The result of a served request (R200 to R203): which results its micro-program can raise, which access stands right
before an error, and how far an aborted micro-program got. -/

namespace Sys2Proof.Machine

/-! ### The abort of a micro-program -/

/-- A micro-program that raises splits at the failing primitive, and `upc` has moved by the primitives before it. -/
theorem runPrims_some_split {prog : List Prim} {s t : State} {e : Err} (h : runPrims prog s = (t, some e)) :
    ∃ pre p post u, prog = pre ++ p :: post ∧ runPrims pre s = (u, none) ∧ stepPrim p u = (t, some e) ∧
      t.upc = s.upc + pre.length := by
  induction prog generalizing s with
  | nil => cases h
  | cons p ps ih =>
    have hupc := (stepPrim_done p s).upc
    cases hr : primRaise p s with
    | none =>
      rw [runPrims_cons_ok _ hr] at h
      obtain ⟨pre, q, post, u, rfl, hpre, hq, hcount⟩ := ih h
      refine ⟨p :: pre, q, post, u, rfl, (runPrims_cons_ok _ hr).trans hpre, hq, ?_⟩
      rw [hcount, advance_upc, hupc, List.length_cons]
      omega
    | some e' =>
      rw [runPrims_cons_raise _ hr] at h
      obtain ⟨rfl, he⟩ := Prod.mk.inj h
      exact ⟨[], p, ps, s, rfl, rfl, Prod.ext rfl ((stepPrim_raise p s).trans (hr.trans he)), hupc⟩

/-- Settles O37: from `upc` 0 the count of the primitives before the failing one is `upc` itself. -/
theorem abortIsPrecise : Obligations.AbortIsPrecise := by
  intro prog s t e hupc h
  obtain ⟨pre, p, post, u, hprog, hpre, hp, hcount⟩ := runPrims_some_split h
  exact ⟨pre, p, post, u, hprog, hpre, hp, by rw [hcount, hupc, Nat.zero_add]⟩

/-! ### The results an operation may have -/

theorem successForm_error (op : OpName) (e : Err) : successForm op (.error e) = false := by
  cases op <;> rfl

theorem resultAllowed_of_successForm {op : OpName} {r : Result} (rst bl : Bool) (h : successForm op r = true) :
    resultAllowed rst bl op r = true := by
  cases r with
  | error e => rw [successForm_error] at h; cases h
  | ok | okOrientation _ | okHandles _ _ _ => exact h

/-- Every operation with a micro-program but `hard_reset` uses the channel (R202). -/
theorem mayTransport_of_progOf {i : Instr} {s : State} {ps : List Prim} (hp : progOf i s = some ps)
    (hhard : opNameOf i ≠ .hardReset) : mayTransport (opNameOf i) = true := by
  cases i with
  | new _ _ _ | release | orientation => cases hp
  | hardReset => exact absurd rfl hhard
  | init | setOrientation _ | setAddressWindow _ _ _ _ | setPixel _ _ _ | setPixels _ _ _ _ _ | writeRaw _ => rfl

/-- A micro-program with a burst is that of an operation `Transport` is possible for (R202). -/
theorem mayTransport_of_burst_mem {i : Instr} {s : State} {ps : List Prim} (hp : progOf i s = some ps)
    (hmem : (∃ b, Prim.cmd b ∈ ps) ∨ ∃ bs, Prim.data bs ∈ ps) : mayTransport (opNameOf i) = true := by
  refine mayTransport_of_progOf hp fun hhard => ?_
  cases i <;> cases hhard
  cases hp
  obtain ⟨b, hb⟩ | ⟨bs, hbs⟩ := hmem
  · exact cmd_notMem_hrst _ _ b hb
  · exact data_notMem_hrst _ _ bs hbs

theorem pin_notMem_initProgram_no_lines (cfg : Config) (line : Line) (lv : Level) :
    Prim.pin line lv ∉ initProgram cfg none none := by
  unfold initProgram initCacheWrite
  cases cfg.cachePolicy <;> simp [hrst, bls, guarded, initStep5, initStep8, paramCommand]

/-- A micro-program with a pin is that of an operation `Pin` is possible for with the lines present (R202). -/
theorem mayPin_of_pin_mem {i : Instr} {s : State} {ps : List Prim} {line : Line} {lv : Level}
    (hp : progOf i s = some ps) (hmem : Prim.pin line lv ∈ ps) :
    mayPin s.rst.isSome s.bl.isSome (opNameOf i) = true := by
  by_cases hhard : opNameOf i = .hardReset
  · cases i <;> cases hhard
    cases hp
    cases hrst : s.rst with
    | none => rw [hrst] at hmem; cases hmem
    | some r => rfl
  by_cases hinit : opNameOf i = .init
  · cases i <;> cases hinit
    cases hp
    cases hrst : s.rst with
    | some r => rfl
    | none =>
      cases hbl : s.bl with
      | some b => rfl
      | none =>
        rw [hrst, hbl] at hmem
        exact absurd hmem (pin_notMem_initProgram_no_lines _ line lv)
  exact absurd hmem (pin_notMem_progOf hp hhard hinit line lv)

/-- What a primitive of a micro-program raises is an error its operation may have (R202). -/
theorem resultAllowed_of_primRaise {i : Instr} {s u : State} {ps : List Prim} {p : Prim} {e : Err}
    (hp : progOf i s = some ps) (hmem : p ∈ ps) (hr : primRaise p u = some e) :
    resultAllowed s.rst.isSome s.bl.isSome (opNameOf i) (.error e) = true := by
  cases p with
  | cmd b =>
    cases eq_transport_of_chanErr hr
    exact mayTransport_of_burst_mem hp (.inl ⟨b, hmem⟩)
  | data bs =>
    cases eq_transport_of_chanErr hr
    exact mayTransport_of_burst_mem hp (.inr ⟨bs, hmem⟩)
  | pin line lv =>
    obtain ⟨x, -, rfl⟩ := pinAns_of_pinErr_some hr
    exact mayPin_of_pin_mem hp hmem
  | delay us => cases hr
  | setOrient o => cases hr

/-- The result of a micro-program's run is one its operation may have (R201, R202). -/
theorem RunEvents.resultAllowed {i : Instr} {s : State} {ps : List Prim} {evs : List Ev} {r : Option Err}
    (h : RunEvents ps evs r) (hp : progOf i s = some ps) :
    resultAllowed s.rst.isSome s.bl.isSome (opNameOf i) (resultOfRun r) = true := by
  cases r with
  | none => exact resultAllowed_of_successForm _ _ (successForm_ok_of_progOf hp)
  | some e =>
    obtain ⟨pre, p, post, u, rfl, hraise, -⟩ := h
    exact resultAllowed_of_primRaise hp List.mem_append_cons_self hraise

/-- A request without a micro-program cannot fail: it ends with a success of its form (R201). -/
theorem exec_no_program_succeeds {i : Instr} {s t : State} (hp : progOf i s = none) (h : exec i s = .next t) :
    ∃ r, newEvents s t = [.beginEv (opNameOf i), .endEv r] ∧ successForm (opNameOf i) r = true := by
  obtain ⟨_, _, _, rfl, -, rfl⟩ | ⟨rfl, -, rfl⟩ | ⟨rfl, -, rfl⟩ | ⟨ps, hp', -⟩ := exec_cases h
  · exact ⟨.ok, newEvents_of_append (List.append_assoc _ _ _), rfl⟩
  · exact ⟨.okHandles s.chan s.rst s.bl, newEvents_of_append (List.append_assoc _ _ _), rfl⟩
  · exact ⟨.okOrientation s.orient, newEvents_of_append (List.append_assoc _ _ _), rfl⟩
  · rw [hp] at hp'
    cases hp'

/-- A served request adds its new events to the trace and takes nothing from it (R28). -/
theorem exec_trace_eq {i : Instr} {s t : State} (h : exec i s = .next t) : t.trace = s.trace ++ newEvents s t := by
  obtain ⟨evs, hevs⟩ := exec_trace_grows h
  rw [newEvents_of_append hevs.symm, hevs]

/-- The new events of a served request: events without a result, then the one result, which its operation may have
(R201, R202). -/
theorem exec_one_result {i : Instr} {s t : State} (h : exec i s = .next t) :
    ∃ evs r, newEvents s t = evs ++ [.endEv r] ∧ resultsOf evs = [] ∧
      resultAllowed t.rst.isSome t.bl.isSome (opNameOf i) r = true := by
  cases hp : progOf i s with
  | none =>
    obtain ⟨r, hnew, hr⟩ := exec_no_program_succeeds hp h
    exact ⟨[.beginEv (opNameOf i)], r, hnew, rfl, resultAllowed_of_successForm _ _ hr⟩
  | some ps =>
    obtain ⟨evs, r, hnew, hrun⟩ := exec_program_newEvents hp h
    rw [exec_program hp] at h
    obtain ⟨-, -, hrst, hbl, -⟩ := serveProgram_frame h
    refine ⟨.beginEv (opNameOf i) :: evs, resultOfRun r, hnew, hrun.resultsOf_eq_nil, ?_⟩
    rw [hrst, hbl]
    exact hrun.resultAllowed hp

/-- Settles O35: the new events end with the one result, and they are all that is added to the trace. -/
theorem oneAllowedResult : Obligations.OneAllowedResult := by
  intro i s t h
  obtain ⟨evs, r, hnew, hnone, hallowed⟩ := exec_one_result h
  exact ⟨evs, r, by rw [exec_trace_eq h, hnew, List.append_assoc], hnone, hallowed⟩

/-! ### The access before an error -/

/-- A request that ended with an error ran its micro-program to a primitive that raised it, whose event stands right
before the result (R200, R203). -/
theorem exec_error_newEvents {i : Instr} {s t : State} {e : Err} (h : exec i s = .next t)
    (he : resultsOf (newEvents s t) = [.error e]) :
    ∃ ps evs p u, progOf i s = some ps ∧ primRaise p u = some e ∧
      newEvents s t = evs ++ primEvent p u ++ [.endEv (.error e)] := by
  cases hp : progOf i s with
  | none =>
    obtain ⟨r, hnew, hr⟩ := exec_no_program_succeeds hp h
    rw [hnew] at he
    cases he
    rw [successForm_error] at hr
    cases hr
  | some ps =>
    obtain ⟨evs, r, hnew, hrun⟩ := exec_program_newEvents hp h
    have hresult : resultOfRun r = .error e := by simpa [hnew, hrun.resultsOf_eq_nil] using he
    cases r with
    | none => cases hresult
    | some e' =>
      cases hresult
      obtain ⟨pre, p, post, u, -, hraise, rfl⟩ := hrun
      exact ⟨ps, .beginEv (opNameOf i) :: okEvents pre, p, u, rfl, hraise, hnew⟩

/-- A primitive that raises `Transport` is a failed burst (R44, R45). -/
theorem primEvent_of_transport {p : Prim} {s : State} (h : primRaise p s = some .transport) :
    ∃ ev, primEvent p s = [ev] ∧ ((∃ b, ev = .cmdEv b .fail) ∨ ∃ bs, ev = .dataEv bs .fail) := by
  cases p with
  | cmd b => exact ⟨_, by rw [primEvent, chanAns_of_chanErr_some h], .inl ⟨b, rfl⟩⟩
  | data bs => exact ⟨_, by rw [primEvent, chanAns_of_chanErr_some h], .inr ⟨bs, rfl⟩⟩
  | pin line lv =>
    obtain ⟨_, -, he⟩ := pinAns_of_pinErr_some h
    cases he
  | delay us => cases h
  | setOrient o => cases h

/-- A primitive that raises `Pin(e)` is a pin that failed with this payload (R46). -/
theorem primEvent_of_pin {p : Prim} {s : State} {e : PinErr} (h : primRaise p s = some (.pin e)) :
    ∃ line lv, primEvent p s = [.pinEv line lv (.fail e)] := by
  cases p with
  | cmd b => cases eq_transport_of_chanErr h
  | data bs => cases eq_transport_of_chanErr h
  | pin line lv =>
    obtain ⟨_, hans, he⟩ := pinAns_of_pinErr_some h
    cases he
    exact ⟨line, lv, by rw [primEvent, hans]⟩
  | delay us => cases h
  | setOrient o => cases h

/-- Settles O36: the event of the primitive that raised the error is a failed access of the error's kind. -/
theorem errorNamesTheFailingAccess : Obligations.ErrorNamesTheFailingAccess := by
  intro i s t h
  refine ⟨fun he => ?_, fun e he => ?_⟩
  · obtain ⟨_, evs, p, u, -, hraise, hnew⟩ := exec_error_newEvents h he
    obtain ⟨ev, hev, hfail⟩ := primEvent_of_transport hraise
    exact ⟨evs, ev, by rw [hnew, hev, List.append_assoc]; rfl, hfail⟩
  · obtain ⟨_, evs, p, u, -, hraise, hnew⟩ := exec_error_newEvents h he
    obtain ⟨line, lv, hev⟩ := primEvent_of_pin hraise
    exact ⟨evs, line, lv, by rw [hnew, hev, List.append_assoc]; rfl⟩

end Sys2Proof.Machine
end

section
/-! Which requests are served and what a run keeps of the others: every operation but `new` while Live (R210), also
after an error (R205); a refusal's mark (R207); nothing without a request (R208). -/

namespace Sys2Proof.Machine

/-! ### Every request while Live -/

/-- Settles O12: a micro-program is served while Live, and so are `release` and `orientation`. -/
theorem everyOperationIsServedWhileLive : Obligations.EveryOperationIsServedWhileLive := by
  intro i s hl hi
  cases hp : progOf i s with
  | some ps => exact ⟨_, (exec_program hp).trans (serveProgram_live _ ps hl)⟩
  | none =>
    cases i with
    | new c r b => exact absurd rfl (hi c r b)
    | release => exact ⟨_, exec_release_live hl⟩
    | orientation => exact ⟨_, exec_orientation_live hl⟩
    | hardReset | init | setOrientation _ | setAddressWindow _ _ _ _ | setPixel _ _ _ | setPixels _ _ _ _ _
    | writeRaw _ => cases hp

/-- Settles O43: only a micro-program ends with an error, it leaves the lifetime and the marks alone, and the block is
still Live. -/
theorem errorsAreNotSticky : Obligations.ErrorsAreNotSticky := by
  intro i j s t e h he hj
  obtain ⟨ps, _, _, _, hp, -, -⟩ := exec_error_newEvents h he
  rw [exec_program hp] at h
  obtain ⟨hlife, hchan, hrst, hbl, -, hrefusals, -⟩ := serveProgram_frame h
  have hl : t.life = .live := hlife.trans (serveProgram_next h).1
  exact ⟨hl, hchan, hrst, hbl, hrefusals, everyOperationIsServedWhileLive j t hl hj⟩

/-! ### Refusal marks -/

/-- A served request adds no mark and removes none. -/
theorem exec_refusals {i : Instr} {s t : State} (h : exec i s = .next t) : t.refusals = s.refusals := by
  obtain ⟨_, _, _, -, -, rfl⟩ | ⟨-, -, rfl⟩ | ⟨-, -, rfl⟩ | ⟨ps, hp, -⟩ := exec_cases h
  · rfl
  · rfl
  · rfl
  · rw [exec_program hp] at h
    obtain ⟨-, -, -, -, -, hrefusals, -⟩ := serveProgram_frame h
    exact hrefusals

theorem step_refusals {s t : State} (h : step s = .next t) : t.refusals = s.refusals := by
  obtain ⟨-, rfl⟩ | ⟨_, _, _, -, -, hexec⟩ := step_cases h
  · rfl
  · have hkept := exec_refusals hexec
    exact hkept

theorem serve_of_next {s t : State} (h : step s = .next t) : serve s = t := by
  rw [serve, h]

theorem serve_of_refused {s : State} {r : Refusal} (h : step s = .refused r) : serve s = markRefused r s := by
  rw [serve, h]

/-- Serving one request keeps every mark. -/
theorem serve_keeps_refusals (s : State) : s.refusals <+: (serve s).refusals := by
  cases h : step s with
  | next t => rw [serve_of_next h, step_refusals h]
  | fault f => nomatch f
  | refused r => rw [serve_of_refused h, markRefused_refusals]; exact List.prefix_append _ _

theorem serveAll_keeps_refusals (n : Nat) (s : State) : s.refusals <+: (serveAll n s).refusals := by
  induction n generalizing s with
  | zero => exact List.prefix_rfl
  | succ n ih => exact (serve_keeps_refusals s).trans (ih (serve s))

/-- Settles O44: a refused step is served by its mark alone, and every mark stays. -/
theorem refusalsLeaveTheirMark : Obligations.RefusalsLeaveTheirMark :=
  ⟨fun _ _ h => serve_of_refused h, serveAll_keeps_refusals⟩

/-! ### No request -/

theorem fetch_of_reqs_nil {s : State} (h : s.reqs = []) : fetch s = none := by
  simp only [fetch, h]

/-- Settles O7: with an empty queue nothing is fetched, and the step answers its own state. -/
theorem idleBlockDoesNothing : Obligations.IdleBlockDoesNothing := by
  intro s h
  simp only [step, fetch_of_reqs_nil h]

end Sys2Proof.Machine
end
